-- ==== Sys2Proof/Word.lean ====
section
/-! DEFINITION. The widths of the machine's values (00_scope.md R7, R8, R13): plain unsigned bit vectors and small indices. -/

namespace Sys2Proof

/-- A byte: a general register, a timer, a memory byte, the immediate `kk`. -/
abbrev Byte := BitVec 8

/-- A 16-bit word: the opcode word, `I`, `PC`, a return-stack entry. -/
abbrev Word := BitVec 16

/-- The 12-bit address field `nnn`. -/
abbrev Addr := BitVec 12

/-- The number of a general register, the fields `x` and `y` (R13), and of a logical key (10_state.md R33). -/
abbrev RegIx := Fin 16

/-- The sprite height `n`, 0 to 15 rows (30_encoding.md R73). -/
abbrev Rows := Fin 16

/-- The flag register VF is `V[15]` (10_state.md R22). -/
abbrev vf : RegIx := 15

end Sys2Proof
end

