-- ==== Sys2Proof/Config.lean ====
section
/-! DEFINITION. The parameters of the block that are not fixed numbers (00_scope.md R6), and the one free value (R12).
The numbers R6 fixes (4096 bytes, 16 registers, 16 stack entries, 64 by 32 pixels, ...) are the sizes of State's fields. -/

namespace Sys2Proof

/-- `ADDR_POLICY` (R6, 20_memory.md R55): what an access at an address of 0x1000 or above does. -/
inductive AddrPolicy where
  /-- The step reports `AddressOutOfRange` (the default). -/
  | fault
  /-- The access is made at `addr mod 4096`. -/
  | wrap12
  deriving DecidableEq, Repr

/-- The parameters of R6 a program can tell apart. Their defaults are `Config.default` (Machine/Parameters.lean). -/
structure Config where
  /-- `ADDR_POLICY`. -/
  addrPolicy : AddrPolicy
  /-- `KEYWAIT_IMPL`: whether Fx0A is decoded (30_encoding.md R77). -/
  keywaitImpl : Bool
  /-- `FONT`: the 80 bytes reset leaves at 0x000-0x04F (10_state.md R36). -/
  font : Vector Byte 80
  deriving DecidableEq, Repr

/-- FREE VALUE: the byte of the `k`-th draw of Cxkk (R12 `draw_byte()`, 42_alu.md R151). It has no body, so nothing can be proved of
its value; a statement holds for every sequence of draws. Log entry 1. -/
opaque Config.rnd : Nat → Byte

end Sys2Proof
end

