-- ==== Sys2Proof/Machine/Parameters.lean ====
section
/-! DEFINITION. The spec's default values of the parameters (00_scope.md R6) and the reset contents of memory (10_state.md R36, R38). -/

namespace Sys2Proof.Machine

/-- The default FONT: 16 glyphs of 5 bytes, digit `d` at `5*d` (10_state.md R36). UNVERIFIED, unsafe for claims about glyph bytes:
the spec takes the table from general knowledge (decision D14). Log entry 6. -/
def defaultFont : Vector Byte 80 :=
  #v[0xF0, 0x90, 0x90, 0x90, 0xF0,
     0x20, 0x60, 0x20, 0x20, 0x70,
     0xF0, 0x10, 0xF0, 0x80, 0xF0,
     0xF0, 0x10, 0xF0, 0x10, 0xF0,
     0x90, 0x90, 0xF0, 0x10, 0x10,
     0xF0, 0x80, 0xF0, 0x10, 0xF0,
     0xF0, 0x80, 0xF0, 0x90, 0xF0,
     0xF0, 0x10, 0x20, 0x40, 0x40,
     0xF0, 0x90, 0xF0, 0x90, 0xF0,
     0xF0, 0x90, 0xF0, 0x10, 0xF0,
     0xF0, 0x90, 0xF0, 0x90, 0x90,
     0xE0, 0x90, 0xE0, 0x90, 0xE0,
     0xF0, 0x80, 0x80, 0x80, 0xF0,
     0xE0, 0x90, 0x90, 0x90, 0xE0,
     0xF0, 0x80, 0xF0, 0x80, 0xF0,
     0xF0, 0x80, 0xF0, 0x80, 0x80]

/-- The default parameters: ADDR_POLICY `fault`, KEYWAIT_IMPL `true`, the default FONT (R6, decisions D2, D8, D14). Log entries 4, 5, 6. -/
def defaultConfig : Config :=
  { addrPolicy := .fault, keywaitImpl := true, font := defaultFont }

/-- What reset leaves at memory address `a`: FONT at 0x000-0x04F, 0x00 elsewhere (10_state.md R38). It is what an address that memory
does not list reads as. -/
def initialByte (c : Config) (a : Nat) : Byte :=
  if h : a < 80 then c.font[a] else 0

end Sys2Proof.Machine
end

