-- ==== Sys2Proof/Syntax.lean ====
section
/-! DEFINITION. The instructions: one constructor per row of spec/opcode_table.json, in the table's order (30_encoding.md R74, R78). -/

namespace Sys2Proof

/-- An instruction with its fields (30_encoding.md R71, R72). `y` of the one-operand shifts is decoded and unused (R75), so it stands here
too: no bit of a word is dropped. -/
inductive Instr where
  /-- 00E0 `CLS` -/
  | cls
  /-- 00EE `RET` -/
  | ret
  /-- 1nnn `JP nnn` -/
  | jpNnn (nnn : Addr)
  /-- 2nnn `CALL nnn` -/
  | callNnn (nnn : Addr)
  /-- 3xkk `SE Vx, kk` -/
  | seVxKk (x : RegIx) (kk : Byte)
  /-- 4xkk `SNE Vx, kk` -/
  | sneVxKk (x : RegIx) (kk : Byte)
  /-- 5xy0 `SE Vx, Vy` -/
  | seVxVy (x y : RegIx)
  /-- 6xkk `LD Vx, kk` -/
  | ldVxKk (x : RegIx) (kk : Byte)
  /-- 7xkk `ADD Vx, kk` -/
  | addVxKk (x : RegIx) (kk : Byte)
  /-- 8xy0 `LD Vx, Vy` -/
  | ldVxVy (x y : RegIx)
  /-- 8xy1 `OR Vx, Vy` -/
  | orVxVy (x y : RegIx)
  /-- 8xy2 `AND Vx, Vy` -/
  | andVxVy (x y : RegIx)
  /-- 8xy3 `XOR Vx, Vy` -/
  | xorVxVy (x y : RegIx)
  /-- 8xy4 `ADD Vx, Vy` -/
  | addVxVy (x y : RegIx)
  /-- 8xy5 `SUB Vx, Vy` -/
  | subVxVy (x y : RegIx)
  /-- 8xy6 `SHR Vx` -/
  | shrVx (x y : RegIx)
  /-- 8xy7 `SUBN Vx, Vy` -/
  | subnVxVy (x y : RegIx)
  /-- 8xyE `SHL Vx` -/
  | shlVx (x y : RegIx)
  /-- 9xy0 `SNE Vx, Vy` -/
  | sneVxVy (x y : RegIx)
  /-- Annn `LD I, nnn` -/
  | ldINnn (nnn : Addr)
  /-- Bnnn `JP V0, nnn` -/
  | jpV0Nnn (nnn : Addr)
  /-- Cxkk `RND Vx, kk` -/
  | rndVxKk (x : RegIx) (kk : Byte)
  /-- Dxyn `DRW Vx, Vy, n` -/
  | drwVxVyN (x y : RegIx) (n : Rows)
  /-- Ex9E `SKP Vx` -/
  | skpVx (x : RegIx)
  /-- ExA1 `SKNP Vx` -/
  | sknpVx (x : RegIx)
  /-- Fx07 `LD Vx, DT` -/
  | ldVxDt (x : RegIx)
  /-- Fx0A `LD Vx, K` -/
  | ldVxK (x : RegIx)
  /-- Fx15 `LD DT, Vx` -/
  | ldDtVx (x : RegIx)
  /-- Fx18 `LD ST, Vx` -/
  | ldStVx (x : RegIx)
  /-- Fx1E `ADD I, Vx` -/
  | addIVx (x : RegIx)
  /-- Fx29 `LD F, Vx` -/
  | ldFVx (x : RegIx)
  /-- Fx33 `LD B, Vx` -/
  | ldBVx (x : RegIx)
  /-- Fx55 `LD [I], Vx` -/
  | ldIndVx (x : RegIx)
  /-- Fx65 `LD Vx, [I]` -/
  | ldVxInd (x : RegIx)
  deriving DecidableEq, Repr

end Sys2Proof
end

