-- ==== Sys2Proof/Decode.lean ====
section
/-! DEFINITION. The fields of an opcode word, the decoder (30_encoding.md R70-R77, 40_step.md R105), the encoder written from the same
patterns (R72), and the opcode table as masks and patterns. The decoder and the encoder do not call each other. -/

namespace Sys2Proof

/-- Why a word or a list of bytes is not an instruction. -/
inductive Reject where
  /-- A word no row of R74 lists (R76): an unknown opcode, with the word. -/
  | unknownOpcode (op : Word)
  /-- Fewer than the 2 bytes of an instruction (R70); the machine's fetch never gives this, it reads two bytes or faults. -/
  | tooFewBytes
  deriving DecidableEq, Repr

/-! ### Fields (R71) -/

/-- `o` = op[15:12], the family. -/
def fieldO (op : Word) : BitVec 4 := op.extractLsb' 12 4

/-- `x` = op[11:8] (C2: bits 11:8, not the low byte's high nibble). -/
def fieldX (op : Word) : RegIx := (op.extractLsb' 8 4).toFin

/-- `y` = op[7:4]. -/
def fieldY (op : Word) : RegIx := (op.extractLsb' 4 4).toFin

/-- `n` = op[3:0], as the number of rows of Dxyn or as a selector. -/
def fieldN (op : Word) : Rows := (op.extractLsb' 0 4).toFin

/-- `kk` = op[7:0]. -/
def fieldKk (op : Word) : Byte := op.extractLsb' 0 8

/-- `nnn` = op[11:0]. -/
def fieldNnn (op : Word) : Addr := op.extractLsb' 0 12

/-! ### Decoding (R74) -/

/-- Family 0: the whole word must match (R74, decision D11). -/
def decodeFamily0 (op : Word) : Except Reject Instr :=
  if op = 0x00E0#16 then .ok .cls
  else if op = 0x00EE#16 then .ok .ret
  else .error (.unknownOpcode op)

/-- Family 8: the low nibble selects. -/
def decodeFamily8 (op : Word) : Except Reject Instr :=
  match (fieldN op).val with
  | 0x0 => .ok (.ldVxVy (fieldX op) (fieldY op))
  | 0x1 => .ok (.orVxVy (fieldX op) (fieldY op))
  | 0x2 => .ok (.andVxVy (fieldX op) (fieldY op))
  | 0x3 => .ok (.xorVxVy (fieldX op) (fieldY op))
  | 0x4 => .ok (.addVxVy (fieldX op) (fieldY op))
  | 0x5 => .ok (.subVxVy (fieldX op) (fieldY op))
  | 0x6 => .ok (.shrVx (fieldX op) (fieldY op))
  | 0x7 => .ok (.subnVxVy (fieldX op) (fieldY op))
  | 0xE => .ok (.shlVx (fieldX op) (fieldY op))
  | _ => .error (.unknownOpcode op)

/-- Family E: the low byte selects. -/
def decodeFamilyE (op : Word) : Except Reject Instr :=
  match (fieldKk op).toNat with
  | 0x9E => .ok (.skpVx (fieldX op))
  | 0xA1 => .ok (.sknpVx (fieldX op))
  | _ => .error (.unknownOpcode op)

/-- Family F: the low byte selects; Fx0A only under KEYWAIT_IMPL (R77). -/
def decodeFamilyF (c : Config) (op : Word) : Except Reject Instr :=
  match (fieldKk op).toNat with
  | 0x07 => .ok (.ldVxDt (fieldX op))
  | 0x0A => if c.keywaitImpl then .ok (.ldVxK (fieldX op)) else .error (.unknownOpcode op)
  | 0x15 => .ok (.ldDtVx (fieldX op))
  | 0x18 => .ok (.ldStVx (fieldX op))
  | 0x1E => .ok (.addIVx (fieldX op))
  | 0x29 => .ok (.ldFVx (fieldX op))
  | 0x33 => .ok (.ldBVx (fieldX op))
  | 0x55 => .ok (.ldIndVx (fieldX op))
  | 0x65 => .ok (.ldVxInd (fieldX op))
  | _ => .error (.unknownOpcode op)

/-- The decode map of R74: the family, then the family's selector. Total on every word (R75). -/
def decode (c : Config) (op : Word) : Except Reject Instr :=
  match (fieldO op).toNat with
  | 0x0 => decodeFamily0 op
  | 0x1 => .ok (.jpNnn (fieldNnn op))
  | 0x2 => .ok (.callNnn (fieldNnn op))
  | 0x3 => .ok (.seVxKk (fieldX op) (fieldKk op))
  | 0x4 => .ok (.sneVxKk (fieldX op) (fieldKk op))
  | 0x5 => if fieldN op = 0 then .ok (.seVxVy (fieldX op) (fieldY op)) else .error (.unknownOpcode op)
  | 0x6 => .ok (.ldVxKk (fieldX op) (fieldKk op))
  | 0x7 => .ok (.addVxKk (fieldX op) (fieldKk op))
  | 0x8 => decodeFamily8 op
  | 0x9 => if fieldN op = 0 then .ok (.sneVxVy (fieldX op) (fieldY op)) else .error (.unknownOpcode op)
  | 0xA => .ok (.ldINnn (fieldNnn op))
  | 0xB => .ok (.jpV0Nnn (fieldNnn op))
  | 0xC => .ok (.rndVxKk (fieldX op) (fieldKk op))
  | 0xD => .ok (.drwVxVyN (fieldX op) (fieldY op) (fieldN op))
  | 0xE => decodeFamilyE op
  | 0xF => decodeFamilyF c op
  | _ => .error (.unknownOpcode op)

/-- The word two bytes make, the first the high one (20_memory.md R53, 40_step.md R101). -/
def wordOfBytes (hi lo : Byte) : Word := hi ++ lo

/-- The high byte of a word, stored at the lower address (R53). -/
def highByte (op : Word) : Byte := op.extractLsb' 8 8

/-- The low byte of a word, stored at the higher address (R53). -/
def lowByte (op : Word) : Byte := op.extractLsb' 0 8

/-- Decode the first instruction of a list of bytes, in memory order, and give the rest. Every instruction is 2 bytes (R70). -/
def decodeBytes (c : Config) (bytes : List Byte) : Except Reject (Instr × List Byte) :=
  match bytes with
  | hi :: lo :: rest =>
    match decode c (wordOfBytes hi lo) with
    | .ok i => .ok (i, rest)
    | .error e => .error e
  | _ => .error .tooFewBytes

/-- The instruction read, under the default parameters, from the word `w` of `nbits` bits laid out in memory order. -/
def decodeTableWord (nbits w : Nat) : Option Instr :=
  let op : Word := BitVec.ofNat 16 (w % 2 ^ nbits)
  match decodeBytes Machine.defaultConfig [highByte op, lowByte op] with
  | .ok (i, _) => some i
  | .error _ => none

/-! ### Encoding, from the formats of R72 and the table of R74 -/

/-- A register number or row count as its 4-bit field. -/
def nibble (k : Fin 16) : BitVec 4 := BitVec.ofFin k

/-- Format FA: `oooo nnnn nnnn nnnn`. -/
def formatFA (o : BitVec 4) (nnn : Addr) : Word := o ++ nnn

/-- Format FK: `oooo xxxx kkkk kkkk`; format FX is the same with the sub-opcode in place of `kk`. -/
def formatFK (o : BitVec 4) (x : RegIx) (kk : Byte) : Word := o ++ (nibble x ++ kk)

/-- Formats FR and FD: `oooo xxxx yyyy ffff`. -/
def formatFR (o : BitVec 4) (x y : RegIx) (f : BitVec 4) : Word := o ++ (nibble x ++ (nibble y ++ f))

/-- The word of an instruction. -/
def encode (i : Instr) : Word :=
  match i with
  | .cls => 0x00E0
  | .ret => 0x00EE
  | .jpNnn nnn => formatFA 0x1 nnn
  | .callNnn nnn => formatFA 0x2 nnn
  | .seVxKk x kk => formatFK 0x3 x kk
  | .sneVxKk x kk => formatFK 0x4 x kk
  | .seVxVy x y => formatFR 0x5 x y 0x0
  | .ldVxKk x kk => formatFK 0x6 x kk
  | .addVxKk x kk => formatFK 0x7 x kk
  | .ldVxVy x y => formatFR 0x8 x y 0x0
  | .orVxVy x y => formatFR 0x8 x y 0x1
  | .andVxVy x y => formatFR 0x8 x y 0x2
  | .xorVxVy x y => formatFR 0x8 x y 0x3
  | .addVxVy x y => formatFR 0x8 x y 0x4
  | .subVxVy x y => formatFR 0x8 x y 0x5
  | .shrVx x y => formatFR 0x8 x y 0x6
  | .subnVxVy x y => formatFR 0x8 x y 0x7
  | .shlVx x y => formatFR 0x8 x y 0xE
  | .sneVxVy x y => formatFR 0x9 x y 0x0
  | .ldINnn nnn => formatFA 0xA nnn
  | .jpV0Nnn nnn => formatFA 0xB nnn
  | .rndVxKk x kk => formatFK 0xC x kk
  | .drwVxVyN x y n => formatFR 0xD x y (nibble n)
  | .skpVx x => formatFK 0xE x 0x9E
  | .sknpVx x => formatFK 0xE x 0xA1
  | .ldVxDt x => formatFK 0xF x 0x07
  | .ldVxK x => formatFK 0xF x 0x0A
  | .ldDtVx x => formatFK 0xF x 0x15
  | .ldStVx x => formatFK 0xF x 0x18
  | .addIVx x => formatFK 0xF x 0x1E
  | .ldFVx x => formatFK 0xF x 0x29
  | .ldBVx x => formatFK 0xF x 0x33
  | .ldIndVx x => formatFK 0xF x 0x55
  | .ldVxInd x => formatFK 0xF x 0x65

/-! ### The opcode table as masks and patterns (opcode_table.json) -/

/-- One row of the table: a word is of the row when `word AND mask = pattern`. -/
structure TableRow where
  /-- the row's mnemonic -/
  mnemonic : String
  /-- the row's "match" -/
  pattern : Word
  /-- the row's "mask" -/
  mask : Word
  deriving DecidableEq, Repr

/-- `op` is a word of the row. -/
def rowMatches (r : TableRow) (op : Word) : Bool := op &&& r.mask == r.pattern

/-- The 34 rows, in the table's order. -/
def opcodeTable : List TableRow :=
  [⟨"CLS", 0x00E0, 0xFFFF⟩, ⟨"RET", 0x00EE, 0xFFFF⟩, ⟨"JP_nnn", 0x1000, 0xF000⟩, ⟨"CALL_nnn", 0x2000, 0xF000⟩,
   ⟨"SE_Vx__kk", 0x3000, 0xF000⟩, ⟨"SNE_Vx__kk", 0x4000, 0xF000⟩, ⟨"SE_Vx__Vy", 0x5000, 0xF00F⟩, ⟨"LD_Vx__kk", 0x6000, 0xF000⟩,
   ⟨"ADD_Vx__kk", 0x7000, 0xF000⟩, ⟨"LD_Vx__Vy", 0x8000, 0xF00F⟩, ⟨"OR_Vx__Vy", 0x8001, 0xF00F⟩, ⟨"AND_Vx__Vy", 0x8002, 0xF00F⟩,
   ⟨"XOR_Vx__Vy", 0x8003, 0xF00F⟩, ⟨"ADD_Vx__Vy", 0x8004, 0xF00F⟩, ⟨"SUB_Vx__Vy", 0x8005, 0xF00F⟩, ⟨"SHR_Vx", 0x8006, 0xF00F⟩,
   ⟨"SUBN_Vx__Vy", 0x8007, 0xF00F⟩, ⟨"SHL_Vx", 0x800E, 0xF00F⟩] ++
  [⟨"SNE_Vx__Vy", 0x9000, 0xF00F⟩, ⟨"LD_I__nnn", 0xA000, 0xF000⟩, ⟨"JP_V0__nnn", 0xB000, 0xF000⟩, ⟨"RND_Vx__kk", 0xC000, 0xF000⟩,
   ⟨"DRW_Vx__Vy__n", 0xD000, 0xF000⟩, ⟨"SKP_Vx", 0xE09E, 0xF0FF⟩, ⟨"SKNP_Vx", 0xE0A1, 0xF0FF⟩, ⟨"LD_Vx__DT", 0xF007, 0xF0FF⟩,
   ⟨"LD_Vx__K", 0xF00A, 0xF0FF⟩, ⟨"LD_DT__Vx", 0xF015, 0xF0FF⟩, ⟨"LD_ST__Vx", 0xF018, 0xF0FF⟩, ⟨"ADD_I__Vx", 0xF01E, 0xF0FF⟩,
   ⟨"LD_F__Vx", 0xF029, 0xF0FF⟩, ⟨"LD_B__Vx", 0xF033, 0xF0FF⟩, ⟨"LD__I___Vx", 0xF055, 0xF0FF⟩, ⟨"LD_Vx___I", 0xF065, 0xF0FF⟩]

/-- The mnemonic an instruction has in the table. -/
def mnemonicOf (i : Instr) : String :=
  match i with
  | .cls => "CLS"
  | .ret => "RET"
  | .jpNnn _ => "JP_nnn"
  | .callNnn _ => "CALL_nnn"
  | .seVxKk _ _ => "SE_Vx__kk"
  | .sneVxKk _ _ => "SNE_Vx__kk"
  | .seVxVy _ _ => "SE_Vx__Vy"
  | .ldVxKk _ _ => "LD_Vx__kk"
  | .addVxKk _ _ => "ADD_Vx__kk"
  | .ldVxVy _ _ => "LD_Vx__Vy"
  | .orVxVy _ _ => "OR_Vx__Vy"
  | .andVxVy _ _ => "AND_Vx__Vy"
  | .xorVxVy _ _ => "XOR_Vx__Vy"
  | .addVxVy _ _ => "ADD_Vx__Vy"
  | .subVxVy _ _ => "SUB_Vx__Vy"
  | .shrVx _ _ => "SHR_Vx"
  | .subnVxVy _ _ => "SUBN_Vx__Vy"
  | .shlVx _ _ => "SHL_Vx"
  | .sneVxVy _ _ => "SNE_Vx__Vy"
  | .ldINnn _ => "LD_I__nnn"
  | .jpV0Nnn _ => "JP_V0__nnn"
  | .rndVxKk _ _ => "RND_Vx__kk"
  | .drwVxVyN _ _ _ => "DRW_Vx__Vy__n"
  | .skpVx _ => "SKP_Vx"
  | .sknpVx _ => "SKNP_Vx"
  | .ldVxDt _ => "LD_Vx__DT"
  | .ldVxK _ => "LD_Vx__K"
  | .ldDtVx _ => "LD_DT__Vx"
  | .ldStVx _ => "LD_ST__Vx"
  | .addIVx _ => "ADD_I__Vx"
  | .ldFVx _ => "LD_F__Vx"
  | .ldBVx _ => "LD_B__Vx"
  | .ldIndVx _ => "LD__I___Vx"
  | .ldVxInd _ => "LD_Vx___I"

end Sys2Proof
end

