-- ==== Sys2Proof/Machine/State.lean ====
section
/-! DEFINITION. The state of the block (10_state.md R20), the model's own bookkeeping fields, the reasons a step can stop, and the state
after reset (R38). Plain data throughout. -/

namespace Sys2Proof.Machine

/-- Memory: the bytes that differ from the reset contents, as (address, byte) cells with strictly rising addresses (Memory.wf in
Machine/Ops.lean). An address not listed reads as `initialByte` gives. -/
abbrev Memory := List Host.Cell

/-- The display buffer, `disp[row][column]` (10_state.md R32). -/
abbrev Display := Vector (Vector Bool 64) 32

/-- The wait state of 10_state.md R37. -/
inductive Mode where
  | running
  /-- the key wait of Fx0A, with the register the key goes to -/
  | awaitingKey (x : RegIx)
  deriving DecidableEq, Repr

/-- What a step or a load returns at its port (60_exceptions.md R230), with what the result records. -/
inductive Result where
  | ok
  | waiting
  | unknownOpcode (op : Word)
  | stackOverflow
  | stackUnderflow
  | addressOutOfRange (a : Nat)
  | keyIndexOutOfRange (k : Byte)
  | programTooLarge
  deriving DecidableEq, Repr

/-- Reasons a step stops the machine. -/
inductive Fault where
  /-- Raised by `step` alone, when the fetch's two bytes reach 0x1000 or above under ADDR_POLICY fault (40_step.md R102), with the first
  address out of range. The block changes no state and faults the same way at every later step until a reset, so the model stops: safe.
  Every other fault of the spec leaves a state from which the block goes on (60_exceptions.md R237, R238), so it is a next state whose
  `result` says so (log entry 2). -/
  | addressOutOfRange (a : Nat)
  deriving DecidableEq, Repr

/-- Reasons a step is refused. -/
inductive Refusal where
  /-- For an instruction that has no meaning yet, by `exec` alone; safe. No arm of `exec` uses it: every instruction has its meaning. -/
  | notModelled (mnemonic : String)
  deriving DecidableEq, Repr

/-- The state. From `mem` to `mode` it is the tuple of R20, whole; the last four fields are the model's own. -/
structure State where
  /-- 4096 bytes (R34) -/
  mem : Memory
  /-- V0 to VF (R21) -/
  v : Vector Byte 16
  /-- the index register I (R24) -/
  i : Word
  /-- the program counter (R26) -/
  pc : Word
  /-- the return stack (R29) -/
  stack : Vector Word 16
  /-- the stack pointer, 0 to 16: the number of live entries (R30) -/
  sp : Fin 17
  /-- the delay timer (R31) -/
  dt : Byte
  /-- the sound timer (R31) -/
  st : Byte
  /-- the display buffer (R32) -/
  disp : Display
  /-- the keypad state, `true` for down (R33) -/
  keys : Vector Bool 16
  /-- the wait state (R37) -/
  mode : Mode
  /-- MODEL: the parameters of 00_scope.md R6, which no transaction changes (log entry 4) -/
  config : Config
  /-- MODEL: how many draws of Cxkk were made, the argument of the free value (log entry 1) -/
  draws : Nat
  /-- MODEL: the result the last step returned (log entry 3) -/
  result : Result
  /-- MODEL: the first result since reset that reports a fault or an unknown opcode (log entry 3) -/
  firstFailure : Option Result
  deriving DecidableEq, Repr

/-- The state after construction and after `reset()` (R38, 70_reset_and_hazards.md R260, R261), with the default parameters. -/
def State.reset : State :=
  { mem := []
    v := Vector.replicate 16 0
    i := 0
    pc := 0x0200
    stack := Vector.replicate 16 0
    sp := 0
    dt := 0
    st := 0
    disp := Vector.replicate 32 (Vector.replicate 64 false)
    keys := Vector.replicate 16 false
    mode := .running
    config := defaultConfig
    draws := 0
    result := .ok
    firstFailure := none }

end Sys2Proof.Machine
end

