-- ==== Sys2Proof/Machine/Ops.lean ====
section
/-! DEFINITION. The named operations: memory cells, registers, the return stack, the program counter, the range check of addresses, what a
step reports, raising a fault, and the fetch. -/

namespace Sys2Proof.Machine

/-! ### Memory cells (20_memory.md R50-R58). `d` is what an unlisted address reads as. -/

/-- The byte at address `a`. -/
def Memory.read (d : Nat → Byte) (m : Memory) (a : Nat) : Byte :=
  match m with
  | [] => d a
  | c :: rest => if c.1 = a then c.2 else Memory.read d rest a

/-- Put a cell into a list of rising addresses, in place of the cell of its address. -/
def Memory.insert (m : Memory) (a : Nat) (b : Byte) : Memory :=
  match m with
  | [] => [(a, b)]
  | c :: rest =>
    if a < c.1 then (a, b) :: c :: rest
    else if a = c.1 then (a, b) :: rest
    else c :: Memory.insert rest a b

/-- Store byte `b` at `a`, keeping the canonical form: a byte equal to what an unlisted address reads as is not listed. -/
def Memory.write (d : Nat → Byte) (m : Memory) (a : Nat) (b : Byte) : Memory :=
  if b = d a then m.filter (fun c => c.1 != a) else Memory.insert m a b

/-- The canonical form: strictly rising addresses, all below 4096, no entry equal to what an unlisted address reads as. -/
abbrev Memory.wf (d : Nat → Byte) (m : Memory) : Prop :=
  m.Pairwise (fun c e => c.1 < e.1) ∧ ∀ c ∈ m, c.1 < 4096 ∧ c.2 ≠ d c.1

/-- The memory of a state is in canonical form. -/
abbrev State.memWf (s : State) : Prop := Memory.wf (initialByte s.config) s.mem

/-- `mem[a]`, for an address `a` below 4096. -/
def State.byteAt (s : State) (a : Nat) : Byte := Memory.read (initialByte s.config) s.mem a

/-- The memory byte an effective address names (R55): `addr mod 4096`. Under ADDR_POLICY fault an access is made only after the range check
has passed, and the address is then itself. -/
def physAddr (a : Nat) : Nat := a % 4096

/-- `MemRead(addr, 1)` (00_scope.md R10), after the range check. -/
def State.memRead (s : State) (a : Nat) : Byte := s.byteAt (physAddr a)

/-- `MemWrite(addr, 1, b)` (R10), after the range check. No range is protected (R52). -/
def State.memWrite (s : State) (a : Nat) (b : Byte) : State :=
  { s with mem := Memory.write (initialByte s.config) s.mem (physAddr a) b }

/-- The bytes at `base`, `base + 1`, ..., `len` of them, in ascending order (R54). -/
def State.readBytes (s : State) (base len : Nat) : List Byte :=
  (List.range len).map (fun k => s.memRead (base + k))

/-- Store bytes at `base`, `base + 1`, ... in ascending order (R54). -/
def State.writeBytes (s : State) (base : Nat) (bytes : List Byte) : State :=
  match bytes with
  | [] => s
  | b :: rest => State.writeBytes (s.memWrite base b) (base + 1) rest

/-- The first out-of-range address of the access range `base` .. `base + len - 1`, when ADDR_POLICY is `fault` and the range reaches 0x1000
(R55, 60_exceptions.md R233): `max(base, 0x1000)`. An empty range has none (44_display.md R195), and `wrap12` has none. -/
def State.firstOutOfRange (s : State) (base len : Nat) : Option Nat :=
  match s.config.addrPolicy with
  | .fault => if 0 < len ∧ 0x1000 < base + len then some (max base 0x1000) else none
  | .wrap12 => none

/-! ### Registers (10_state.md sections 2 to 8) -/

/-- `V[x] <- b`. -/
def State.setV (s : State) (x : RegIx) (b : Byte) : State := { s with v := s.v.set x b }

/-- `I <- w`. -/
def State.setI (s : State) (w : Word) : State := { s with i := w }

/-- `PC <- w`. -/
def State.setPc (s : State) (w : Word) : State := { s with pc := w }

/-- `DT <- b`. -/
def State.setDt (s : State) (b : Byte) : State := { s with dt := b }

/-- `ST <- b`. -/
def State.setSt (s : State) (b : Byte) : State := { s with st := b }

/-- Replace the display buffer. -/
def State.setDisp (s : State) (d : Display) : State := { s with disp := d }

/-- Change the wait state. -/
def State.setMode (s : State) (m : Mode) : State := { s with mode := m }

/-- Replace all 16 key states (60_exceptions.md R246). -/
def State.setKeys (s : State) (k : Vector Bool 16) : State := { s with keys := k }

/-- `V[first] <- b`, `V[first + 1] <- ...` for a list of bytes; bytes past VF have no register. -/
def loadRegs (v : Vector Byte 16) (first : Nat) (bytes : List Byte) : Vector Byte 16 :=
  match bytes with
  | [] => v
  | b :: rest => loadRegs (v.setIfInBounds first b) (first + 1) rest

/-- Load `V[0]`, `V[1]`, ... from a list of bytes. -/
def State.setRegs (s : State) (bytes : List Byte) : State := { s with v := loadRegs s.v 0 bytes }

/-- Draw the random byte of one Cxkk (00_scope.md R12): a free value, a new one at each draw. Log entry 1. -/
def State.drawByte (s : State) : Byte := Config.rnd s.draws

/-- Count one draw. -/
def State.countDraw (s : State) : State := { s with draws := s.draws + 1 }

/-- `PC <- (PC + 2) mod 65536`: the advance of the fetch (40_step.md R103) and of a skip taken (41_flow.md R128). -/
def State.advancePc (s : State) : State := s.setPc (s.pc + 2)

/-- The skip of 41_flow.md R123-R126 and 45_timers_keypad.md R210, R211: a further 2 when the condition holds. -/
def State.skipIf (s : State) (taken : Bool) : State := if taken then s.advancePc else s

/-! ### The return stack (10_state.md R29, R30). SP is the number of live entries. -/

/-- Replace the return stack. -/
def State.setStack (s : State) (stack : Vector Word 16) : State := { s with stack := stack }

/-- `SP <- n`. -/
def State.setSp (s : State) (n : Fin 17) : State := { s with sp := n }

/-- Push a return address, `stack[SP] <- w; SP <- SP + 1`; none when 16 entries are live. -/
def State.push (s : State) (w : Word) : Option State :=
  if h : s.sp.val < 16 then
    some ((s.setStack (s.stack.set s.sp.val w)).setSp ⟨s.sp.val + 1, by omega⟩)
  else none

/-- Pop the top entry, `SP <- SP - 1`, giving `stack[SP]`; the entry keeps its value (R30); none when no entry is live. -/
def State.pop (s : State) : Option (Word × State) :=
  if h : 0 < s.sp.val then
    some (s.stack[s.sp.val - 1], s.setSp ⟨s.sp.val - 1, by omega⟩)
  else none

/-! ### What a step reports (60_exceptions.md R230) -/

/-- The numeric code of a result (R230, decision D26). -/
def Result.code (r : Result) : Nat :=
  match r with
  | .ok => 0
  | .waiting => 1
  | .unknownOpcode _ => 2
  | .stackOverflow => 3
  | .stackUnderflow => 4
  | .addressOutOfRange _ => 5
  | .keyIndexOutOfRange _ => 6
  | .programTooLarge => 7

/-- The results R230 calls faults of `step`. -/
def Result.isFault (r : Result) : Bool :=
  match r with
  | .stackOverflow => true
  | .stackUnderflow => true
  | .addressOutOfRange _ => true
  | .keyIndexOutOfRange _ => true
  | .ok => false
  | .waiting => false
  | .unknownOpcode _ => false
  | .programTooLarge => false

/-- The step's result, with no failure recorded: `Ok` and `Waiting`. -/
def State.report (s : State) (r : Result) : State := { s with result := r }

/-- The step's result, and the model's sticky record of the first failure (R238, 93_implementation_defined.md items 2 and 5). -/
def State.recordFailure (s : State) (r : Result) : State :=
  { s with result := r, firstFailure := s.firstFailure.or (some r) }

/-- The instruction is done: the step returns `Ok` (40_step.md R100). -/
def done (s : State) : Host.Outcome State Fault Refusal := .next (s.report .ok)

/-- `raise F(info)` (00_scope.md R11, 60_exceptions.md R237, R238): the step ends with result `F` and writes nothing more. The one way an
instruction raises a fault. There is no vector, no saved register and no return from a fault: PC keeps the fetch's advance, and the next
step goes on from there if the caller ignores the fault. -/
def raise (r : Result) (s : State) : Host.Outcome State Fault Refusal := .next (s.recordFailure r)

/-- An unknown word (40_step.md R107): no effect after the fetch's PC advance, result `UnknownOpcode(op)`. -/
def unknownOpcode (op : Word) (s : State) : Host.Outcome State Fault Refusal := .next (s.recordFailure (.unknownOpcode op))

/-- Check the access range before the instruction writes anything (20_memory.md R55), then go on. -/
def withRange (s : State) (base len : Nat) (go : Host.Outcome State Fault Refusal) : Host.Outcome State Fault Refusal :=
  match s.firstOutOfRange base len with
  | some a => raise (.addressOutOfRange a) s
  | none => go

/-! ### Fetch (40_step.md R101, R102) -/

/-- The word at PC, high byte first, or the first out-of-range address. -/
def State.fetch (s : State) : Except Nat Word :=
  match s.firstOutOfRange s.pc.toNat 2 with
  | some a => .error a
  | none => .ok (wordOfBytes (s.memRead s.pc.toNat) (s.memRead (s.pc.toNat + 1)))

/-- Store `op` where the next step fetches, in mode `Running`; a PC no fetch can read is first put back to the program base 0x200. It stands
for the host's load of a program (log entry 7). -/
def State.placeWord (s : State) (op : Word) : State :=
  let s := match s.firstOutOfRange s.pc.toNat 2 with
    | some _ => s.setPc 0x0200
    | none => s
  ((s.setMode .running).memWrite s.pc.toNat (highByte op)).memWrite (s.pc.toNat + 1) (lowByte op)

end Sys2Proof.Machine
end

