-- ==== Sys2Proof/Machine/Operands.lean ====
section
/-! DEFINITION. The operand forms (30_encoding.md R73, 40_step.md R108): a register read, zero extension, and the address `I` holds. Every
meaning reads its operands from the state it is given, before any write. -/

namespace Sys2Proof.Machine

/-- `V[x]`. -/
def State.reg (s : State) (x : RegIx) : Byte := s.v[x]

/-- `zext_16` of a byte (00_scope.md R8). -/
def zext16 (b : Byte) : Word := b.setWidth 16

/-- `zext_16(nnn)`. -/
def zextAddr (nnn : Addr) : Word := nnn.setWidth 16

/-- The base of a memory access through `I`, a natural number computed without wrap (20_memory.md R55). -/
def State.iBase (s : State) : Nat := s.i.toNat

/-- `keys[k]` for the key index in a byte, or none when the index is above 15 (45_timers_keypad.md R210). -/
def State.keyState (s : State) (k : Byte) : Option Bool :=
  if h : k.toNat < 16 then some s.keys[k.toNat] else none

/-- `V[0]` .. `V[x]`, in order (43_index_memory.md R174). -/
def State.regsUpTo (s : State) (x : RegIx) : List Byte := s.v.toList.take (x.val + 1)

/-- The decimal digits of a byte: hundreds, tens, ones (43_index_memory.md R173). -/
def bcdDigits (b : Byte) : List Byte :=
  [BitVec.ofNat 8 (b.toNat / 100), BitVec.ofNat 8 (b.toNat / 10 % 10), BitVec.ofNat 8 (b.toNat % 10)]

end Sys2Proof.Machine
end

