-- ==== Sys2Proof/Machine/Flags.lean ====
section
/-! DEFINITION. The results and flags of the ALU (42_alu.md), computed on natural numbers and then narrowed, and the order of the two writes
(R152). -/

namespace Sys2Proof.Machine

/-- A flag as the byte written to VF: 1 or 0. -/
def flagByte (f : Bool) : Byte := if f then 1 else 0

/-- `(a + b) mod 256` (R141, R146). -/
def sumByte (a b : Byte) : Byte := BitVec.ofNat 8 (a.toNat + b.toNat)

/-- The carry of 8xy4: the sum is above 255 (R146). -/
def carryFlag (a b : Byte) : Bool := 255 < a.toNat + b.toNat

/-- `(a - b) mod 256`, the integer difference taken modulo 256 (R147, R149). -/
def diffByte (a b : Byte) : Byte := BitVec.ofInt 8 ((a.toNat : Int) - b.toNat)

/-- Not borrow: the first operand is at least the second, equality included (R147, R149). -/
def notBorrowFlag (a b : Byte) : Bool := b.toNat ≤ a.toNat

/-- `a >> 1`, logical (R148). -/
def shiftRightByte (a : Byte) : Byte := a >>> 1

/-- The bit SHR shifts out: bit 0 (R148). -/
def bit0Flag (a : Byte) : Bool := a.getLsbD 0

/-- `(a << 1) mod 256` (R150). -/
def shiftLeftByte (a : Byte) : Byte := a <<< 1

/-- The bit SHL shifts out: bit 7 (R150). -/
def bit7Flag (a : Byte) : Bool := a.getLsbD 7

/-- Write the result to `V[x]` and then the flag to VF: with `x = F` the flag is what stays (R152, decision D5). -/
def State.setResultThenFlag (s : State) (x : RegIx) (result : Byte) (flag : Bool) : State :=
  (s.setV x result).setV vf (flagByte flag)

end Sys2Proof.Machine
end

