-- ==== Sys2Proof/Machine/Alu.lean ====
section
/-! DEFINITION. Register arithmetic and logic (42_alu.md). None of these changes PC or can fault. -/

namespace Sys2Proof.Machine

/-- 6xkk LD Vx, kk (R140). -/
def execLdVxKk (x : RegIx) (kk : Byte) (s : State) : Host.Outcome State Fault Refusal := done (s.setV x kk)

/-- 7xkk ADD Vx, kk, no flag (R141). -/
def execAddVxKk (x : RegIx) (kk : Byte) (s : State) : Host.Outcome State Fault Refusal := done (s.setV x (sumByte (s.reg x) kk))

/-- 8xy0 LD Vx, Vy (R142). -/
def execLdVxVy (x y : RegIx) (s : State) : Host.Outcome State Fault Refusal := done (s.setV x (s.reg y))

/-- 8xy1 OR Vx, Vy; VF is not reset (R143). -/
def execOrVxVy (x y : RegIx) (s : State) : Host.Outcome State Fault Refusal := done (s.setV x (s.reg x ||| s.reg y))

/-- 8xy2 AND Vx, Vy; VF is not reset (R144). -/
def execAndVxVy (x y : RegIx) (s : State) : Host.Outcome State Fault Refusal := done (s.setV x (s.reg x &&& s.reg y))

/-- 8xy3 XOR Vx, Vy; VF is not reset (R145). -/
def execXorVxVy (x y : RegIx) (s : State) : Host.Outcome State Fault Refusal := done (s.setV x (s.reg x ^^^ s.reg y))

/-- 8xy4 ADD Vx, Vy (R146). -/
def execAddVxVy (x y : RegIx) (s : State) : Host.Outcome State Fault Refusal :=
  done (s.setResultThenFlag x (sumByte (s.reg x) (s.reg y)) (carryFlag (s.reg x) (s.reg y)))

/-- 8xy5 SUB Vx, Vy (R147). -/
def execSubVxVy (x y : RegIx) (s : State) : Host.Outcome State Fault Refusal :=
  done (s.setResultThenFlag x (diffByte (s.reg x) (s.reg y)) (notBorrowFlag (s.reg x) (s.reg y)))

/-- 8xy6 SHR Vx; Vy is not read (R148). -/
def execShrVx (x _y : RegIx) (s : State) : Host.Outcome State Fault Refusal :=
  done (s.setResultThenFlag x (shiftRightByte (s.reg x)) (bit0Flag (s.reg x)))

/-- 8xy7 SUBN Vx, Vy (R149). -/
def execSubnVxVy (x y : RegIx) (s : State) : Host.Outcome State Fault Refusal :=
  done (s.setResultThenFlag x (diffByte (s.reg y) (s.reg x)) (notBorrowFlag (s.reg y) (s.reg x)))

/-- 8xyE SHL Vx; Vy is not read (R150). -/
def execShlVx (x _y : RegIx) (s : State) : Host.Outcome State Fault Refusal :=
  done (s.setResultThenFlag x (shiftLeftByte (s.reg x)) (bit7Flag (s.reg x)))

/-- Cxkk RND Vx, kk (R151): one draw, masked. -/
def execRndVxKk (x : RegIx) (kk : Byte) (s : State) : Host.Outcome State Fault Refusal :=
  done (s.countDraw.setV x (s.drawByte &&& kk))

end Sys2Proof.Machine
end

