-- ==== Sys2Proof/Machine/DisplayEngine.lean ====
section
/-! DEFINITION. The display engine (44_display.md): CLS and the XOR plot of DRW with its collision flag. -/

namespace Sys2Proof.Machine

/-- `disp[r mod 32][c mod 64]`: rows and columns wrap independently (R193). -/
def pixel (d : Display) (r c : Nat) : Bool :=
  (d[r % 32]'(Nat.mod_lt _ (by decide)))[c % 64]'(Nat.mod_lt _ (by decide))

/-- Write one pixel. -/
def setPixel (d : Display) (r c : Nat) (b : Bool) : Display :=
  d.set (r % 32) ((d[r % 32]'(Nat.mod_lt _ (by decide))).set (c % 64) b (Nat.mod_lt _ (by decide))) (Nat.mod_lt _ (by decide))

/-- A plot under way: the display so far, and whether a lit pixel was turned off (`hit` of R191). -/
structure Plot where
  disp : Display
  hit : Bool
  deriving DecidableEq, Repr

/-- A sprite bit of 1 at a pixel: collision if it was lit (R194), and XOR. -/
def plotBit (p : Plot) (r c : Nat) : Plot :=
  { disp := setPixel p.disp r c (!(pixel p.disp r c)), hit := p.hit || pixel p.disp r c }

/-- One sprite row byte: bit `7 - c` at column offset `c` (R192). -/
def plotRow (p : Plot) (r cx : Nat) (b : Byte) : Plot :=
  (List.range 8).foldl (fun p c => if b.getLsbD (7 - c) then plotBit p r (cx + c) else p) p

/-- The sprite's rows, one below the other from row `cy` (R191). -/
def plotRows (p : Plot) (cy cx : Nat) (rows : List Byte) : Plot :=
  match rows with
  | [] => p
  | b :: rest => plotRows (plotRow p cy cx b) (cy + 1) cx rest

/-- The plot of a sprite with its anchor at column `cx`, row `cy`. -/
def plotSprite (d : Display) (cx cy : Byte) (rows : List Byte) : Plot :=
  plotRows { disp := d, hit := false } cy.toNat cx.toNat rows

/-- A display with every pixel 0 (R190). -/
def clearDisplay : Display := Vector.replicate 32 (Vector.replicate 64 false)

/-- 00E0 CLS (R190); VF is unchanged. -/
def execCls (s : State) : Host.Outcome State Fault Refusal := done (s.setDisp clearDisplay)

/-- Dxyn DRW Vx, Vy, n (R191-R195): the range check, the rows, the plot, and VF as the collision flag, written last. -/
def execDrwVxVyN (x y : RegIx) (n : Rows) (s : State) : Host.Outcome State Fault Refusal :=
  let plot := plotSprite s.disp (s.reg x) (s.reg y) (s.readBytes s.iBase n.val)
  withRange s s.iBase n.val (done ((s.setDisp plot.disp).setV vf (flagByte plot.hit)))

end Sys2Proof.Machine
end

