-- ==== Sys2Proof/Machine/Flow.lean ====
section
/-! DEFINITION. Control transfer and skips (41_flow.md). PC already holds the fetch address plus 2 (40_step.md R103). -/

namespace Sys2Proof.Machine

/-- 00EE RET (R120). -/
def execRet (s : State) : Host.Outcome State Fault Refusal :=
  match s.pop with
  | none => raise .stackUnderflow s
  | some (target, s') => done (s'.setPc target)

/-- 1nnn JP (R121). -/
def execJpNnn (nnn : Addr) (s : State) : Host.Outcome State Fault Refusal := done (s.setPc (zextAddr nnn))

/-- 2nnn CALL (R122). -/
def execCallNnn (nnn : Addr) (s : State) : Host.Outcome State Fault Refusal :=
  match s.push s.pc with
  | none => raise .stackOverflow s
  | some s' => done (s'.setPc (zextAddr nnn))

/-- 3xkk SE Vx, kk (R123). -/
def execSeVxKk (x : RegIx) (kk : Byte) (s : State) : Host.Outcome State Fault Refusal := done (s.skipIf (s.reg x == kk))

/-- 4xkk SNE Vx, kk (R124). -/
def execSneVxKk (x : RegIx) (kk : Byte) (s : State) : Host.Outcome State Fault Refusal := done (s.skipIf (s.reg x != kk))

/-- 5xy0 SE Vx, Vy (R125). -/
def execSeVxVy (x y : RegIx) (s : State) : Host.Outcome State Fault Refusal := done (s.skipIf (s.reg x == s.reg y))

/-- 9xy0 SNE Vx, Vy (R126). -/
def execSneVxVy (x y : RegIx) (s : State) : Host.Outcome State Fault Refusal := done (s.skipIf (s.reg x != s.reg y))

/-- Bnnn JP V0, nnn (R127): the 16-bit sum, not masked to 12 bits. -/
def execJpV0Nnn (nnn : Addr) (s : State) : Host.Outcome State Fault Refusal :=
  done (s.setPc (zextAddr nnn + zext16 (s.reg 0)))

end Sys2Proof.Machine
end

