-- ==== Sys2Proof/Machine/IndexMemory.lean ====
section
/-! DEFINITION. The index register and the memory transfers through it (43_index_memory.md). None of these changes PC, and none changes I as
a side effect of an access (decision D13). -/

namespace Sys2Proof.Machine

/-- Annn LD I, nnn (R170). -/
def execLdINnn (nnn : Addr) (s : State) : Host.Outcome State Fault Refusal := done (s.setI (zextAddr nnn))

/-- Fx1E ADD I, Vx (R171): modulo 65536, no flag, no mask. -/
def execAddIVx (x : RegIx) (s : State) : Host.Outcome State Fault Refusal := done (s.setI (s.i + zext16 (s.reg x)))

/-- Fx29 LD F, Vx (R172): `I = Vx * 5`, Vx not masked. -/
def execLdFVx (x : RegIx) (s : State) : Host.Outcome State Fault Refusal := done (s.setI (zext16 (s.reg x) * 5))

/-- Fx33 LD B, Vx (R173). -/
def execLdBVx (x : RegIx) (s : State) : Host.Outcome State Fault Refusal :=
  withRange s s.iBase 3 (done (s.writeBytes s.iBase (bcdDigits (s.reg x))))

/-- Fx55 LD [I], Vx (R174). -/
def execLdIndVx (x : RegIx) (s : State) : Host.Outcome State Fault Refusal :=
  withRange s s.iBase (x.val + 1) (done (s.writeBytes s.iBase (s.regsUpTo x)))

/-- Fx65 LD Vx, [I] (R175): all bytes are read before a register is written. -/
def execLdVxInd (x : RegIx) (s : State) : Host.Outcome State Fault Refusal :=
  withRange s s.iBase (x.val + 1) (done (s.setRegs (s.readBytes s.iBase (x.val + 1))))

end Sys2Proof.Machine
end

