-- ==== Sys2Proof/Machine/TimersKeypad.lean ====
section
/-! DEFINITION. The timer and keypad instructions and the polling step of the key wait (45_timers_keypad.md). -/

namespace Sys2Proof.Machine

/-- Ex9E SKP Vx (R210): a key index above 15 is a fault, with no skip. -/
def execSkpVx (x : RegIx) (s : State) : Host.Outcome State Fault Refusal :=
  match s.keyState (s.reg x) with
  | none => raise (.keyIndexOutOfRange (s.reg x)) s
  | some down => done (s.skipIf down)

/-- ExA1 SKNP Vx (R211). -/
def execSknpVx (x : RegIx) (s : State) : Host.Outcome State Fault Refusal :=
  match s.keyState (s.reg x) with
  | none => raise (.keyIndexOutOfRange (s.reg x)) s
  | some down => done (s.skipIf (!down))

/-- Fx07 LD Vx, DT (R212). -/
def execLdVxDt (x : RegIx) (s : State) : Host.Outcome State Fault Refusal := done (s.setV x s.dt)

/-- Fx0A LD Vx, K (R215): enter the wait; `V[x]` is written by the step that ends it. -/
def execLdVxK (x : RegIx) (s : State) : Host.Outcome State Fault Refusal := done (s.setMode (.awaitingKey x))

/-- Fx15 LD DT, Vx (R213). -/
def execLdDtVx (x : RegIx) (s : State) : Host.Outcome State Fault Refusal := done (s.setDt (s.reg x))

/-- Fx18 LD ST, Vx (R214). -/
def execLdStVx (x : RegIx) (s : State) : Host.Outcome State Fault Refusal := done (s.setSt (s.reg x))

/-- The least key that is down (R216, decision D8). -/
def leastKeyDown (keys : Vector Bool 16) : Option Nat := (List.range 16).find? (fun k => keys[k]?.getD false)

/-- The step in `AwaitingKey(x)` (R216): no fetch; the least key down ends the wait, else `Waiting` and no change. -/
def keywaitPoll (x : RegIx) (s : State) : Host.Outcome State Fault Refusal :=
  match leastKeyDown s.keys with
  | some k => done ((s.setV x (BitVec.ofNat 8 k)).setMode .running)
  | none => .next (s.report .waiting)

end Sys2Proof.Machine
end

