-- ==== Sys2Proof/Machine/Step.lean ====
section
/-! DEFINITION. The step transaction (40_step.md R100): the key-wait poll, or fetch, PC advance, decode, execute. -/

namespace Sys2Proof.Machine

/-- One step (R100, with the order of checks of 60_exceptions.md R239). A fetch that cannot complete is the one outcome `fault` (log
entry 2); every other step has a next state, whose `result` is what the step returns. -/
def step (s : State) : Host.Outcome State Fault Refusal :=
  match s.mode with
  | .awaitingKey x => keywaitPoll x s
  | .running =>
    match s.fetch with
    | .error a => .fault (.addressOutOfRange a)
    | .ok op =>
      match decode s.config op with
      | .error _ => unknownOpcode op s.advancePc
      | .ok i => exec i s.advancePc

/-- `s` with the instruction of `nbits` bits `w` where the next step fetches (log entry 7). -/
def State.withFetchWord (s : State) (nbits w : Nat) : State := s.placeWord (BitVec.ofNat 16 (w % 2 ^ nbits))

end Sys2Proof.Machine
end

