-- ==== Sys2Proof/Machine/Ports.lean ====
section
/-! DEFINITION. The host's port transactions (10_state.md R40, 60_exceptions.md sections 4 and 5, 70_reset_and_hazards.md): each one atomic
transition of the state, between two steps (R5, R250). -/

namespace Sys2Proof.Machine

/-- `reset()` (70_reset_and_hazards.md R261): the state of R38 from any state. The parameters stay, reset memory is the FONT of these
parameters, and the count of draws stays, since the draws come from outside the block (log entries 1 and 4). -/
def State.resetPort (s : State) : State := { State.reset with config := s.config, draws := s.draws }

/-- `load(romBytes)` (R262, R263): the bytes to 0x200 on, or a rejection that writes nothing. -/
def State.loadPort (s : State) (rom : List Byte) : State × Nat × Result :=
  if rom.length ≤ 3584 then (s.writeBytes 0x200 rom, rom.length, .ok) else (s, 0, .programTooLarge)

/-- A timer's tick: down by 1, floored at 0 (10_state.md R31). -/
def countDown (b : Byte) : Byte := if 0 < b.toNat then b - 1 else b

/-- `tickTimers()` (60_exceptions.md R242), in either mode. -/
def State.tickTimersPort (s : State) : State := (s.setDt (countDown s.dt)).setSt (countDown s.st)

/-- `setKey(index, pressed)` (R245); none is the refusal of an index outside 0..15. -/
def State.setKeyPort (s : State) (index : Nat) (pressed : Bool) : Option State :=
  if h : index < 16 then some (s.setKeys (s.keys.set index pressed)) else none

/-- `displaySnapshot()` (R243). -/
def State.snapshotPort (s : State) : Display := s.disp

/-- `soundActive()` (R244). -/
def State.soundActivePort (s : State) : Bool := decide (0 < s.st.toNat)

/-- A component of the state that peek can name (R247, 10_state.md R20). -/
inductive Component where
  | mem (a : Fin 4096)
  | v (x : RegIx)
  | i
  | pc
  | stack (j : Fin 16)
  | sp
  | dt
  | st
  | disp (r : Fin 32) (c : Fin 64)
  | key (k : RegIx)
  | mode
  deriving DecidableEq, Repr

/-- What peek reads. -/
inductive PeekValue where
  | byte (b : Byte)
  | word (w : Word)
  | count (n : Nat)
  | bit (b : Bool)
  | mode (m : Mode)
  deriving DecidableEq, Repr

/-- Register and memory peek (R247). -/
def State.peekPort (s : State) (c : Component) : PeekValue :=
  match c with
  | .mem a => .byte (s.byteAt a.val)
  | .v x => .byte s.v[x]
  | .i => .word s.i
  | .pc => .word s.pc
  | .stack j => .word s.stack[j]
  | .sp => .count s.sp.val
  | .dt => .byte s.dt
  | .st => .byte s.st
  | .disp r c => .bit s.disp[r][c]
  | .key k => .bit s.keys[k]
  | .mode => .mode s.mode

/-- The transactions of R40. -/
inductive Transaction where
  | reset
  | load (rom : List Byte)
  | step
  | tickTimers
  | setKey (index : Nat) (pressed : Bool)
  | updateKeys (keys : Vector Bool 16)
  | displaySnapshot
  | soundActive
  | peek (c : Component)
  deriving DecidableEq, Repr

/-- What a transaction returns to the host. -/
inductive Reply where
  | noReply
  | loaded (count : Nat) (r : Result)
  | stepped (r : Result)
  | keyRefused
  | snapshot (d : Display)
  | sound (active : Bool)
  | peeked (v : PeekValue)
  /-- the model's own: a step refused by name; no step is (every instruction has its meaning) -/
  | notRun (r : Refusal)
  deriving DecidableEq, Repr

/-- `step()` as a port: the state after and the result (40_step.md R100). A fetch fault changes nothing of the block (60_exceptions.md R237);
the model's own record of it is kept (R238). -/
def State.stepPort (s : State) : State × Reply :=
  match step s with
  | .next t => (t, .stepped t.result)
  | .fault (.addressOutOfRange a) => (s.recordFailure (.addressOutOfRange a), .stepped (.addressOutOfRange a))
  | .refused r => (s, .notRun r)

/-- Any transaction of R40. -/
def transact (tr : Transaction) (s : State) : State × Reply :=
  match tr with
  | .reset => (s.resetPort, .noReply)
  | .load rom => ((s.loadPort rom).1, .loaded (s.loadPort rom).2.1 (s.loadPort rom).2.2)
  | .step => s.stepPort
  | .tickTimers => (s.tickTimersPort, .noReply)
  | .setKey index pressed =>
    match s.setKeyPort index pressed with
    | some t => (t, .noReply)
    | none => (s, .keyRefused)
  | .updateKeys keys => (s.setKeys keys, .noReply)
  | .displaySnapshot => (s, .snapshot s.snapshotPort)
  | .soundActive => (s, .sound s.soundActivePort)
  | .peek c => (s, .peeked (s.peekPort c))

/-- `count` steps at the port, whatever they return: the caller that ignores results (R238). -/
def runSteps (count : Nat) (s : State) : State :=
  match count with
  | 0 => s
  | k + 1 => runSteps k s.stepPort.1

/-- One frame of 70_reset_and_hazards.md R264: STEPS_PER_FRAME steps (R271, chosen by the host: an argument), then one tick (R270). -/
def runFrame (stepsPerFrame : Nat) (s : State) : State := (runSteps stepsPerFrame s).tickTimersPort

/-! ### The end of a run (70_reset_and_hazards.md R273, decision D27) -/

/-- Mode `Running`, with PC at a word 1nnn whose nnn is its own address. -/
def State.atSelfJump (s : State) : Bool :=
  match s.mode, s.fetch with
  | .running, .ok op => fieldO op == 1 && (fieldNnn op).toNat == s.pc.toNat
  | _, _ => false

/-- How a run came to stop. A stop on a fault or in a key wait is no end (R273). -/
inductive RunEnd where
  | ended (s : State)
  | onFault (s : State)
  | inKeyWait (s : State)
  deriving DecidableEq, Repr

/-- The host stops here: the end of the run by its budget, unless the last step reported a fault or a key wait is pending. -/
def stopHere (s : State) : RunEnd :=
  match s.result.isFault, s.mode with
  | true, _ => .onFault s
  | false, .awaitingKey _ => .inKeyWait s
  | false, .running => .ended s

/-- A run: the host's transactions in their order, of which at most `budget` are steps. It ends at the first step that reports no fault and
leaves the self-jump, or where the budget or the host's list runs out, whichever comes first. A host that does not ignore faults stops at
the first one (60_exceptions.md R237, R238). -/
def runToEnd (ignoreFaults : Bool) (budget : Nat) (script : List Transaction) (s : State) : RunEnd :=
  match script with
  | [] => stopHere s
  | tr :: rest =>
    let t := (transact tr s).1
    if budget = 0 then stopHere s
    else if tr ≠ .step then runToEnd ignoreFaults budget rest t
    else if t.result.isFault then
      if ignoreFaults then runToEnd ignoreFaults (budget - 1) rest t else stopHere t
    else if t.atSelfJump then .ended t
    else runToEnd ignoreFaults (budget - 1) rest t

end Sys2Proof.Machine
end

