-- ==== Sys2Proof/Safety.lean ====
section
/-! DEFINITION. The terms claims use: a safe step and a failed run (60_exceptions.md R238, 93_implementation_defined.md items 2 and 5), the
end of a run (70_reset_and_hazards.md R273), what a step leaves unchanged, and the machine's invariant. -/

namespace Sys2Proof.Safety

open Sys2Proof.Machine

/-- A step that returns `Ok` or `Waiting`: no fault and no unknown opcode. -/
def SafeStep (s : State) : Prop := ∃ t, step s = .next t ∧ (t.result = .ok ∨ t.result = .waiting)

/-- The run that led here met a fault or an unknown opcode since the last reset. -/
def failed (s : State) : Bool := s.firstFailure.isSome

/-- The run of this host from `s` ends at `t`, in the sense of R273 (log entry 28). -/
def Ended (ignoreFaults : Bool) (budget : Nat) (script : List Transaction) (s t : State) : Prop :=
  runToEnd ignoreFaults budget script s = .ended t

/-- The next step fetches and runs the instruction `i`. -/
def Runs (s : State) (i : Instr) : Prop := s.mode = .running ∧ ∃ op, s.fetch = .ok op ∧ decode s.config op = .ok i

/-- The parts of the state a frame can name. -/
inductive Part where
  | mem
  | v (x : RegIx)
  | i
  | pc
  | stack
  | sp
  | dt
  | st
  | disp
  | keys
  | mode
  | draws
  | failure
  deriving DecidableEq, Repr

/-- From `s` to `t` nothing changed but the parts listed (and `result`, which every step reports): every byte of memory, every general
register, every special register, every pixel and key, and the parameters. -/
structure Frame (changed : List Part) (s t : State) : Prop where
  mem : Part.mem ∉ changed → ∀ a, t.byteAt a = s.byteAt a
  v : ∀ x : RegIx, Part.v x ∉ changed → t.v[x] = s.v[x]
  i : Part.i ∉ changed → t.i = s.i
  pc : Part.pc ∉ changed → t.pc = s.pc
  stack : Part.stack ∉ changed → t.stack = s.stack
  sp : Part.sp ∉ changed → t.sp = s.sp
  dt : Part.dt ∉ changed → t.dt = s.dt
  st : Part.st ∉ changed → t.st = s.st
  disp : Part.disp ∉ changed → t.disp = s.disp
  keys : Part.keys ∉ changed → t.keys = s.keys
  mode : Part.mode ∉ changed → t.mode = s.mode
  draws : Part.draws ∉ changed → t.draws = s.draws
  failure : Part.failure ∉ changed → t.firstFailure = s.firstFailure
  config : t.config = s.config

/-- Address `a` is one of the `len` bytes an access at `base` reaches (20_memory.md R55). -/
def Touches (base len a : Nat) : Prop := ∃ k, k < len ∧ a = physAddr (base + k)

/-- The access range of `len` bytes at `base` is one the parameters allow (R55): none of it at 0x1000 or above, under ADDR_POLICY fault. -/
def InRange (s : State) (base len : Nat) : Prop := s.config.addrPolicy = .fault → base + len ≤ 0x1000

/-- How many bytes an instruction accesses through `I` (20_memory.md R57): Dxyn reads n, Fx33 writes 3, Fx55 and Fx65 move x+1, no other any. -/
def accessLength (i : Instr) : Nat :=
  match i with
  | .drwVxVyN _ _ n => n.val
  | .ldBVx _ => 3
  | .ldIndVx x => x.val + 1
  | .ldVxInd x => x.val + 1
  | _ => 0

/-- A sprite bit of 1 of Dxyn, drawn from state `s`, lands on the pixel at row `r`, column `c` (44_display.md R191-R193): bit `7 - dc` of the
byte at `I + dr`, at row `(Vy + dr) mod 32`, column `(Vx + dc) mod 64`. -/
def Lands (s : State) (x y : RegIx) (n : Rows) (r c : Nat) : Prop :=
  ∃ dr dc, dr < n.val ∧ dc < 8 ∧ (s.memRead (s.i.toNat + dr)).getLsbD (7 - dc) = true ∧
    r = (s.v[y].toNat + dr) % 32 ∧ c = (s.v[x].toNat + dc) % 64

/-- The invariant every transaction keeps: memory is in canonical form, and under ADDR_POLICY fault PC and the return addresses stay where
10_state.md R28 puts them: PC at most 0x10FE, the largest target of Bnnn, and every return address at most 0x1000. -/
structure Inv (s : State) : Prop where
  mem : s.memWf
  pc : s.config.addrPolicy = .fault → s.pc.toNat ≤ 0x10FE
  stack : s.config.addrPolicy = .fault → ∀ j : Fin 16, s.stack[j].toNat ≤ 0x1000

end Sys2Proof.Safety
end

