-- ==== Sys2Proof/Certificates/Slice0/Obligations.lean ====
section
/-! DEFINITION. The statements for the provers. `exec` is given the state the fetch leaves: PC already the fetch address plus 2 (40_step.md
R103). Where a statement says `∃ t, exec i s = .next t ∧ ...` it says that the instruction completes, under the hypotheses alone. A `Frame`
names all that may change; `result` is what the step reports. Where an effect rests on a decision or an inference that the spec marks as its
own, the docstring names it. -/

open Sys2Proof Sys2Proof.Machine Sys2Proof.Safety

/-! ## Encoding (30_encoding.md) -/

/-- Words written out from the spec's encodings decode to the instructions they stand for, and words no row lists are unknown. Two clauses
rest on decision D8, the spec's own and from general knowledge: the word Fx0A of the key wait, and that it is unknown without KEYWAIT_IMPL
(R77, log entry 5). That 0123 and 5121 are unknown rests on decision D11, the spec's own (log entry 14). -/
def Obligations.SampleWordsDecodeAsEncoded : Prop :=
  decode defaultConfig 0x00E0 = .ok .cls ∧ decode defaultConfig 0x00EE = .ok .ret ∧
  decode defaultConfig 0x2300 = .ok (.callNnn 0x300) ∧ decode defaultConfig 0x7CFF = .ok (.addVxKk 0xC 0xFF) ∧
  decode defaultConfig 0x8126 = .ok (.shrVx 1 2) ∧ decode defaultConfig 0xA123 = .ok (.ldINnn 0x123) ∧
  decode defaultConfig 0xD3D2 = .ok (.drwVxVyN 3 0xD 2) ∧ decode defaultConfig 0xE49E = .ok (.skpVx 4) ∧
  decode defaultConfig 0xF50A = .ok (.ldVxK 5) ∧ decode { defaultConfig with keywaitImpl := false } 0xF50A = .error (.unknownOpcode 0xF50A) ∧
  decode defaultConfig 0x0123 = .error (.unknownOpcode 0x0123) ∧ decode defaultConfig 0x5121 = .error (.unknownOpcode 0x5121)

/-- Decoding the word of an instruction gives it back, with every operand at every value, for the instructions the parameters allow
(Fx0A's word is decision D8, the spec's own). -/
def Obligations.DecodeOfEncodeIsTheInstruction : Prop :=
  ∀ (c : Config) (i : Instr), WellFormed c i = true → decode c (encode i) = .ok i

/-- The other direction: a word that decodes is the word of its instruction, so no bit of it is dropped, and the instruction is one the
parameters allow. -/
def Obligations.EncodeOfDecodeIsTheWord : Prop :=
  ∀ (c : Config) (op : Word) (i : Instr), decode c op = .ok i → WellFormed c i = true ∧ encode i = op

/-- Decoding follows the opcode table (R75, an inference the spec draws from R74): a word is an instruction exactly when a row matches it (the
row of Fx0A counts under KEYWAIT_IMPL alone); the row is then the only one and has the instruction's mnemonic; any other word is unknown. -/
def Obligations.DecodeAgreesWithTheTable : Prop :=
  ∀ (c : Config) (op : Word),
    ((∃ i, decode c op = .ok i) ↔
      ∃ r ∈ opcodeTable, rowMatches r op = true ∧ (r.mnemonic = "LD_Vx__K" → c.keywaitImpl = true)) ∧
    (∀ i, decode c op = .ok i →
      (opcodeTable.filter (fun r => rowMatches r op)).map TableRow.mnemonic = [mnemonicOf i]) ∧
    (∀ e, decode c op = .error e → e = .unknownOpcode op)

/-! ## Reset and load (10_state.md section 12, 70_reset_and_hazards.md) -/

/-- `reset()` from any state leaves every component of R38: FONT and zeros in memory, zeros and an empty stack, PC at 0x200, a clear display,
no key down, mode Running (decision D24, the spec's own). A new instance is such a state, with the default parameters. -/
def Obligations.ResetLeavesTheStatedState : Prop :=
  (∀ s : State,
    (∀ a, (h : a < 80) → s.resetPort.byteAt a = s.config.font[a]) ∧
    (∀ a, 80 ≤ a → a < 4096 → s.resetPort.byteAt a = 0) ∧
    (∀ x : RegIx, s.resetPort.v[x] = 0) ∧ s.resetPort.i = 0 ∧ s.resetPort.pc = 0x200 ∧
    (∀ j : Fin 16, s.resetPort.stack[j] = 0) ∧ s.resetPort.sp = 0 ∧ s.resetPort.dt = 0 ∧ s.resetPort.st = 0 ∧
    (∀ r c, pixel s.resetPort.disp r c = false) ∧ (∀ k : RegIx, s.resetPort.keys[k] = false) ∧
    s.resetPort.mode = .running) ∧
  State.reset.resetPort = State.reset ∧ State.reset.config = defaultConfig

/-- `reset()` then `load(rom)`, from any state with the default parameters, is a new instance after `load(rom)`: the same answer, and the same
value of every component peek can read (R265, an inference the spec draws). -/
def Obligations.ResetThenLoadIsANewInstanceLoaded : Prop :=
  ∀ (s : State) (rom : List Byte), s.config = defaultConfig →
    (s.resetPort.loadPort rom).2 = (State.reset.loadPort rom).2 ∧
    ∀ c : Component, (s.resetPort.loadPort rom).1.peekPort c = (State.reset.loadPort rom).1.peekPort c

/-- `load` of at most 3584 bytes copies them to 0x200 on and writes nothing else; a longer ROM is rejected and nothing changes (R262, R263,
with the details of the spec's decision D17). -/
def Obligations.LoadCopiesTheRomOrRejectsIt : Prop :=
  ∀ (s : State) (rom : List Byte),
    (rom.length ≤ 3584 →
      (s.loadPort rom).2 = (rom.length, .ok) ∧
      (∀ j, (h : j < rom.length) → (s.loadPort rom).1.byteAt (0x200 + j) = rom[j]) ∧
      (∀ a, (a < 0x200 ∨ 0x200 + rom.length ≤ a) → (s.loadPort rom).1.byteAt a = s.byteAt a) ∧
      Frame [.mem] s (s.loadPort rom).1) ∧
    (3584 < rom.length → s.loadPort rom = (s, 0, .programTooLarge))

/-- `ProgramTooLarge` comes from `load` of more than 3584 bytes, which changes nothing, and from no step, whatever the state. -/
def Obligations.ProgramTooLargeIsALoadResultOnly : Prop :=
  (∀ (s : State) (rom : List Byte), ((s.loadPort rom).2.2 = .programTooLarge ↔ 3584 < rom.length) ∧
    (3584 < rom.length → (s.loadPort rom).1 = s)) ∧
  ∀ s t : State, step s = .next t → t.result ≠ .programTooLarge

/-! ## Invariant -/

/-- The reset state meets the invariant. -/
def Obligations.ResetMeetsTheInvariant : Prop := Inv State.reset

/-- Every step keeps memory in canonical form and, under ADDR_POLICY fault, PC at most 0x10FE and every return address at most 0x1000, so PC
never wraps (R28, decisions D2 and D4, the spec's own). -/
def Obligations.EveryStepKeepsTheInvariant : Prop := ∀ s t : State, Inv s → step s = .next t → Inv t

/-- So does every transaction of the host, and none changes the parameters. -/
def Obligations.EveryTransactionKeepsTheInvariant : Prop :=
  ∀ (tr : Transaction) (s : State), Inv s → Inv (transact tr s).1 ∧ (transact tr s).1.config = s.config

/-! ## The step (40_step.md, 60_exceptions.md sections 1 and 2) -/

/-- When the two bytes at PC decode to an instruction, the step is that instruction executed with PC advanced by 2 modulo 65536 (R100, R103; the
modulus is decision D4, the spec's own). -/
def Obligations.StepRunsTheDecodedInstruction : Prop :=
  ∀ (s : State) (i : Instr), s.mode = .running → InRange s s.pc.toNat 2 →
    decode s.config (wordOfBytes (s.memRead s.pc.toNat) (s.memRead (s.pc.toNat + 1))) = .ok i →
    step s = exec i { s with pc := s.pc + 2 }

/-- The fetch reads `memory[PC] << 8 | memory[PC+1]`. -/
def Obligations.FetchIsBigEndian : Prop :=
  ∀ s : State, s.pc.toNat + 1 < 4096 →
    ∃ op, s.fetch = .ok op ∧ op.toNat = (s.byteAt s.pc.toNat).toNat * 256 + (s.byteAt (s.pc.toNat + 1)).toNat

/-- Under ADDR_POLICY wrap12 the fetch never faults and reads at the addresses modulo 4096 (R102, the spec's decision D2). -/
def Obligations.FetchUnderWrap12 : Prop :=
  ∀ s : State, s.config.addrPolicy = .wrap12 →
    ∃ op, s.fetch = .ok op ∧
      op.toNat = (s.byteAt (s.pc.toNat % 4096)).toNat * 256 + (s.byteAt ((s.pc.toNat + 1) % 4096)).toNat

/-- A step stops exactly when a fetch is due, ADDR_POLICY is fault and PC is 0xFFF or above, with the first address out of range; it is never
refused (R102, decisions D2 and D25; that this one fault is the outcome `fault` is log entry 2). -/
def Obligations.StepStopsOnlyOnAFetchOutOfRange : Prop :=
  ∀ s : State,
    (∀ f, step s = .fault f ↔
      s.mode = .running ∧ s.config.addrPolicy = .fault ∧ 0xFFF ≤ s.pc.toNat ∧ f = .addressOutOfRange (max s.pc.toNat 0x1000)) ∧
    ∀ r, step s ≠ .refused r

/-- An unknown word changes nothing but the fetch's advance, and the step reports `UnknownOpcode(op)`. (`firstFailure` is the model's own
record, log entry 3.) -/
def Obligations.UnknownWordIsANoOp : Prop :=
  ∀ (s : State) (op : Word) (e : Reject), s.mode = .running → s.fetch = .ok op → decode s.config op = .error e →
    ∃ t, step s = .next t ∧ t.result = .unknownOpcode op ∧ t.pc = s.pc + 2 ∧ Frame [.pc, .failure] s t

/-- Where PC is after a step that fetched: the fetch address plus 2, but for a skip taken (plus 4), a jump, a call and a return, which put their
target there; and plus 2 after every step that reports anything but `Ok` (R104, with decisions D4 and D9, the spec's own). -/
def Obligations.PcAfterAStep : Prop :=
  ∀ (s t : State) (op : Word), s.mode = .running → s.fetch = .ok op → step s = .next t →
    (t.result ≠ .ok → t.pc = s.pc + 2) ∧
    (t.result = .ok → ∃ i, decode s.config op = .ok i ∧
      match i with
      | .jpNnn nnn => t.pc.toNat = nnn.toNat
      | .callNnn nnn => t.pc.toNat = nnn.toNat
      | .jpV0Nnn nnn => t.pc.toNat = nnn.toNat + s.v[0].toNat
      | .ret => ∃ h : 0 < s.sp.val, t.pc = s.stack[s.sp.val - 1]
      | .seVxKk x kk => t.pc = if s.v[x] = kk then s.pc + 4 else s.pc + 2
      | .sneVxKk x kk => t.pc = if s.v[x] = kk then s.pc + 2 else s.pc + 4
      | .seVxVy x y => t.pc = if s.v[x] = s.v[y] then s.pc + 4 else s.pc + 2
      | .sneVxVy x y => t.pc = if s.v[x] = s.v[y] then s.pc + 2 else s.pc + 4
      | .skpVx x => ∃ h : s.v[x].toNat < 16, t.pc = if s.keys[s.v[x].toNat] = true then s.pc + 4 else s.pc + 2
      | .sknpVx x => ∃ h : s.v[x].toNat < 16, t.pc = if s.keys[s.v[x].toNat] = true then s.pc + 2 else s.pc + 4
      | _ => t.pc = s.pc + 2)

/-- A step that reports a fault other than a fetch fault has changed PC, by the fetch's advance, and nothing else. A fetch fault at the port
reports the first address out of range and has changed nothing, not even PC (R102, R237, decisions D2, D12, D22 and D25, the spec's own).
`result` and `firstFailure` are the model's own fields (log entry 3). -/
def Obligations.AFaultingStepChangesOnlyPc : Prop :=
  (∀ s t : State, step s = .next t → t.result.isFault = true →
    s.mode = .running ∧ t = { s with pc := s.pc + 2, result := t.result, firstFailure := s.firstFailure.or (some t.result) }) ∧
  ∀ s : State, s.mode = .running → s.config.addrPolicy = .fault → 0xFFF ≤ s.pc.toNat →
    ∃ t, transact .step s = (t, .stepped (.addressOutOfRange (max s.pc.toNat 0x1000))) ∧ Frame [.failure] s t

/-- `StackOverflow` is what 2nnn reports at SP = 16, and nothing else does; `StackUnderflow` is what 00EE reports at SP = 0; both before any
write. -/
def Obligations.StackFaultsAreRaisedExactlyWhenStated : Prop :=
  ∀ (i : Instr) (s t : State), exec i s = .next t →
    (t.result = .stackOverflow ↔ (∃ nnn, i = .callNnn nnn) ∧ s.sp = 16) ∧
    (t.result = .stackUnderflow ↔ i = .ret ∧ s.sp = 0) ∧
    (t.result = .stackOverflow ∨ t.result = .stackUnderflow → Frame [.failure] s t)

/-- An instruction reports `AddressOutOfRange(a)` exactly when ADDR_POLICY is fault and the bytes it accesses through I reach 0x1000, and then
`a` is `max(I, 0x1000)` and nothing was written (R55, R233, decision D2, the spec's own). -/
def Obligations.AddressFaultsAreRaisedExactlyWhenStated : Prop :=
  ∀ (i : Instr) (s t : State) (a : Nat), exec i s = .next t →
    (t.result = .addressOutOfRange a ↔
      s.config.addrPolicy = .fault ∧ 0 < accessLength i ∧ 0x1000 < s.i.toNat + accessLength i ∧ a = max s.i.toNat 0x1000) ∧
    (t.result = .addressOutOfRange a → Frame [.failure] s t)

/-- An instruction reports `KeyIndexOutOfRange(k)` exactly when it is Ex9E or ExA1 with `k = V[x]` above 15; no skip is taken then (R234,
decision D9, the spec's own). -/
def Obligations.KeyFaultsAreRaisedExactlyWhenStated : Prop :=
  ∀ (i : Instr) (s t : State) (k : Byte), exec i s = .next t →
    (t.result = .keyIndexOutOfRange k ↔ ∃ x : RegIx, (i = .skpVx x ∨ i = .sknpVx x) ∧ k = s.v[x] ∧ 15 < s.v[x].toNat) ∧
    (t.result = .keyIndexOutOfRange k → Frame [.failure] s t)

/-! ## Control transfer (41_flow.md) -/

/-- 00EE: PC gets the top entry and SP goes down by 1; the entry keeps its value (decision D15). At SP = 0 it reports `StackUnderflow`. -/
def Obligations.ReturnPopsTheTopEntry : Prop :=
  ∀ s : State,
    (∀ h : 0 < s.sp.val, ∃ t, exec .ret s = .next t ∧ t.result = .ok ∧ t.pc = s.stack[s.sp.val - 1] ∧
      t.sp.val + 1 = s.sp.val ∧ Frame [.pc, .sp] s t) ∧
    (s.sp = 0 → ∃ t, exec .ret s = .next t ∧ t.result = .stackUnderflow ∧ Frame [.failure] s t)

/-- 1nnn. -/
def Obligations.JumpSetsPc : Prop :=
  ∀ (nnn : Addr) (s : State),
    (∀ c, decode c (formatFA 0x1 nnn) = .ok (.jpNnn nnn)) ∧
    ∃ t, exec (.jpNnn nnn) s = .next t ∧ t.result = .ok ∧ t.pc.toNat = nnn.toNat ∧ Frame [.pc] s t

/-- 2nnn: the advanced PC is pushed and PC gets nnn; at SP = 16 it reports `StackOverflow` and SP and the stack stay. -/
def Obligations.CallPushesTheReturnAddress : Prop :=
  ∀ (nnn : Addr) (s : State),
    (∀ c, decode c (formatFA 0x2 nnn) = .ok (.callNnn nnn)) ∧
    (∀ h : s.sp.val < 16, ∃ t, exec (.callNnn nnn) s = .next t ∧ t.result = .ok ∧ t.pc.toNat = nnn.toNat ∧
      t.sp.val = s.sp.val + 1 ∧ t.stack[s.sp.val] = s.pc ∧ (∀ j : Fin 16, j.val ≠ s.sp.val → t.stack[j] = s.stack[j]) ∧
      Frame [.pc, .sp, .stack] s t) ∧
    (s.sp = 16 → ∃ t, exec (.callNnn nnn) s = .next t ∧ t.result = .stackOverflow ∧ Frame [.failure] s t)

/-- 3xkk and 4xkk: a further 2, modulo 65536, when Vx equals kk, or when it does not. -/
def Obligations.SkipsOnAnImmediate : Prop :=
  ∀ (x : RegIx) (kk : Byte) (s : State),
    (∀ c, decode c (formatFK 0x3 x kk) = .ok (.seVxKk x kk) ∧ decode c (formatFK 0x4 x kk) = .ok (.sneVxKk x kk)) ∧
    (∃ t, exec (.seVxKk x kk) s = .next t ∧ t.result = .ok ∧
      t.pc.toNat = (if s.v[x] = kk then (s.pc.toNat + 2) % 65536 else s.pc.toNat) ∧ Frame [.pc] s t) ∧
    (∃ t, exec (.sneVxKk x kk) s = .next t ∧ t.result = .ok ∧
      t.pc.toNat = (if s.v[x] ≠ kk then (s.pc.toNat + 2) % 65536 else s.pc.toNat) ∧ Frame [.pc] s t)

/-- 5xy0 and 9xy0: the same on two registers; 5xyN and 9xyN with N not 0 are unknown. -/
def Obligations.SkipsOnTwoRegisters : Prop :=
  ∀ (x y : RegIx) (s : State),
    (∀ c, decode c (formatFR 0x5 x y 0x0) = .ok (.seVxVy x y) ∧ decode c (formatFR 0x9 x y 0x0) = .ok (.sneVxVy x y)) ∧
    (∀ c f, f ≠ 0 → decode c (formatFR 0x5 x y f) = .error (.unknownOpcode (formatFR 0x5 x y f)) ∧
      decode c (formatFR 0x9 x y f) = .error (.unknownOpcode (formatFR 0x9 x y f))) ∧
    (∃ t, exec (.seVxVy x y) s = .next t ∧ t.result = .ok ∧
      t.pc.toNat = (if s.v[x] = s.v[y] then (s.pc.toNat + 2) % 65536 else s.pc.toNat) ∧ Frame [.pc] s t) ∧
    (∃ t, exec (.sneVxVy x y) s = .next t ∧ t.result = .ok ∧
      t.pc.toNat = (if s.v[x] ≠ s.v[y] then (s.pc.toNat + 2) % 65536 else s.pc.toNat) ∧ Frame [.pc] s t)

/-- Bnnn: the sum nnn + V0, not masked to 12 bits (decision D4, the spec's own). -/
def Obligations.JumpWithOffsetAddsV0 : Prop :=
  ∀ (nnn : Addr) (s : State),
    ∃ t, exec (.jpV0Nnn nnn) s = .next t ∧ t.result = .ok ∧ t.pc.toNat = nnn.toNat + s.v[0].toNat ∧ Frame [.pc] s t

/-- A call, then any code that leaves SP and the stack as it found them, then a return: PC and SP are back (R129, an inference the spec draws
from R120 and R122). -/
def Obligations.ReturnUndoesACall : Prop :=
  ∀ (nnn : Addr) (s t u : State), exec (.callNnn nnn) s = .next t → t.result = .ok → u.sp = t.sp → u.stack = t.stack →
    ∃ w, exec .ret u = .next w ∧ w.result = .ok ∧ w.pc = s.pc ∧ w.sp = s.sp

/-! ## Arithmetic and logic (42_alu.md) -/

/-- 6xkk. -/
def Obligations.LoadImmediateSetsVx : Prop :=
  ∀ (x : RegIx) (kk : Byte) (s : State),
    (∀ c, decode c (formatFK 0x6 x kk) = .ok (.ldVxKk x kk)) ∧
    ∃ t, exec (.ldVxKk x kk) s = .next t ∧ t.result = .ok ∧ t.v[x] = kk ∧ Frame [.v x] s t

/-- 7xkk: modulo 256, and VF is not written as a flag. -/
def Obligations.AddImmediateWrapsWithNoFlag : Prop :=
  ∀ (x : RegIx) (kk : Byte) (s : State),
    (∀ c, decode c (formatFK 0x7 x kk) = .ok (.addVxKk x kk)) ∧
    ∃ t, exec (.addVxKk x kk) s = .next t ∧ t.result = .ok ∧ t.v[x].toNat = (s.v[x].toNat + kk.toNat) % 256 ∧ Frame [.v x] s t

/-- 8xy0 to 8xy3: Vx gets Vy, or the bitwise OR, AND, XOR; VF is not reset (decision D6, the spec's own). -/
def Obligations.CopyAndLogicWriteVxAlone : Prop :=
  ∀ (x y : RegIx) (s : State),
    (∃ t, exec (.ldVxVy x y) s = .next t ∧ t.result = .ok ∧ t.v[x] = s.v[y] ∧ Frame [.v x] s t) ∧
    (∃ t, exec (.orVxVy x y) s = .next t ∧ t.result = .ok ∧
      (∀ b < 8, t.v[x].getLsbD b = (s.v[x].getLsbD b || s.v[y].getLsbD b)) ∧ Frame [.v x] s t) ∧
    (∃ t, exec (.andVxVy x y) s = .next t ∧ t.result = .ok ∧
      (∀ b < 8, t.v[x].getLsbD b = (s.v[x].getLsbD b && s.v[y].getLsbD b)) ∧ Frame [.v x] s t) ∧
    (∃ t, exec (.xorVxVy x y) s = .next t ∧ t.result = .ok ∧
      (∀ b < 8, t.v[x].getLsbD b = (s.v[x].getLsbD b ^^ s.v[y].getLsbD b)) ∧ Frame [.v x] s t)

/-- 8xy4: VF = 1 exactly when the sum is above 255, the sum modulo 256 to Vx; with x = F, VF ends as the flag (decision D5,
the spec's own). -/
def Obligations.AddSetsSumAndCarry : Prop :=
  ∀ (x y : RegIx) (s : State),
    (∀ c, decode c (formatFR 0x8 x y 0x4) = .ok (.addVxVy x y)) ∧
    ∃ t, exec (.addVxVy x y) s = .next t ∧ t.result = .ok ∧
      t.v[vf].toNat = (if 255 < s.v[x].toNat + s.v[y].toNat then 1 else 0) ∧
      (x ≠ vf → t.v[x].toNat = (s.v[x].toNat + s.v[y].toNat) % 256) ∧ Frame [.v x, .v vf] s t

/-- 8xy5 and 8xy7: VF = 1 exactly when there is no borrow, equality included; the difference modulo 256 to Vx; with x = F, VF ends as the
flag (decision D5, the spec's own). -/
def Obligations.SubtractSetsDifferenceAndNotBorrow : Prop :=
  ∀ (x y : RegIx) (s : State),
    (∀ c, decode c (formatFR 0x8 x y 0x5) = .ok (.subVxVy x y) ∧ decode c (formatFR 0x8 x y 0x7) = .ok (.subnVxVy x y)) ∧
    (∃ t, exec (.subVxVy x y) s = .next t ∧ t.result = .ok ∧
      t.v[vf].toNat = (if s.v[y].toNat ≤ s.v[x].toNat then 1 else 0) ∧
      (x ≠ vf → (t.v[x].toNat : Int) = ((s.v[x].toNat : Int) - s.v[y].toNat) % 256) ∧ Frame [.v x, .v vf] s t) ∧
    (∃ t, exec (.subnVxVy x y) s = .next t ∧ t.result = .ok ∧
      t.v[vf].toNat = (if s.v[x].toNat ≤ s.v[y].toNat then 1 else 0) ∧
      (x ≠ vf → (t.v[x].toNat : Int) = ((s.v[y].toNat : Int) - s.v[x].toNat) % 256) ∧ Frame [.v x, .v vf] s t)

/-- 8xy6 and 8xyE: Vx by one place, the bit shifted out to VF; every y gives the same; with x = F, VF ends as the flag (decision
D5, the spec's own). -/
def Obligations.ShiftsSetResultAndBitShiftedOut : Prop :=
  ∀ (x y : RegIx) (s : State),
    (∀ c, decode c (formatFR 0x8 x y 0x6) = .ok (.shrVx x y) ∧ decode c (formatFR 0x8 x y 0xE) = .ok (.shlVx x y)) ∧
    (∀ y', exec (.shrVx x y') s = exec (.shrVx x y) s ∧ exec (.shlVx x y') s = exec (.shlVx x y) s) ∧
    (∃ t, exec (.shrVx x y) s = .next t ∧ t.result = .ok ∧ t.v[vf].toNat = s.v[x].toNat % 2 ∧
      (x ≠ vf → t.v[x].toNat = s.v[x].toNat / 2) ∧ Frame [.v x, .v vf] s t) ∧
    (∃ t, exec (.shlVx x y) s = .next t ∧ t.result = .ok ∧ t.v[vf].toNat = s.v[x].toNat / 128 ∧
      (x ≠ vf → t.v[x].toNat = s.v[x].toNat * 2 % 256) ∧ Frame [.v x, .v vf] s t)

/-- Cxkk: Vx gets the draw AND kk, and one draw is counted. The draw is the free value `Config.rnd` of log entry 1, of which nothing is known
(R151, decision D10, the spec's own). -/
def Obligations.RandomIsADrawMasked : Prop :=
  ∀ (x : RegIx) (kk : Byte) (s : State),
    ∃ t, exec (.rndVxKk x kk) s = .next t ∧ t.result = .ok ∧
      (∀ b < 8, t.v[x].getLsbD b = ((Config.rnd s.draws).getLsbD b && kk.getLsbD b)) ∧
      t.draws = s.draws + 1 ∧ Frame [.v x, .draws] s t

/-! ## Index register and memory (43_index_memory.md) -/

/-- Annn. -/
def Obligations.LoadIndexSetsI : Prop :=
  ∀ (nnn : Addr) (s : State),
    (∀ c, decode c (formatFA 0xA nnn) = .ok (.ldINnn nnn)) ∧
    ∃ t, exec (.ldINnn nnn) s = .next t ∧ t.result = .ok ∧ t.i.toNat = nnn.toNat ∧ Frame [.i] s t

/-- Fx1E: I + Vx modulo 65536, no flag, no mask (decision D4, the spec's own). -/
def Obligations.AddIndexWrapsAtSixteenBits : Prop :=
  ∀ (x : RegIx) (s : State),
    ∃ t, exec (.addIVx x) s = .next t ∧ t.result = .ok ∧ t.i.toNat = (s.i.toNat + s.v[x].toNat) % 65536 ∧ Frame [.i] s t

/-- Fx29: I = Vx * 5, Vx not masked. -/
def Obligations.FontAddressIsFiveTimesVx : Prop :=
  ∀ (x : RegIx) (s : State),
    (∀ c, decode c (formatFK 0xF x 0x29) = .ok (.ldFVx x)) ∧
    ∃ t, exec (.ldFVx x) s = .next t ∧ t.result = .ok ∧ t.i.toNat = s.v[x].toNat * 5 ∧ Frame [.i] s t

/-- Fx33: the digits of Vx at I, I+1, I+2 (modulo 4096 under wrap12) and no other byte; I is unchanged (decision D13); out of range it
reports `AddressOutOfRange` and writes nothing (ADDR_POLICY is decision D2; both are the spec's own). -/
def Obligations.DecimalDigitsAreStored : Prop :=
  ∀ (x : RegIx) (s : State),
    (∀ c, decode c (formatFK 0xF x 0x33) = .ok (.ldBVx x)) ∧
    (InRange s s.i.toNat 3 → ∃ t, exec (.ldBVx x) s = .next t ∧ t.result = .ok ∧
      (t.byteAt (physAddr s.i.toNat)).toNat = s.v[x].toNat / 100 ∧
      (t.byteAt (physAddr (s.i.toNat + 1))).toNat = s.v[x].toNat / 10 % 10 ∧
      (t.byteAt (physAddr (s.i.toNat + 2))).toNat = s.v[x].toNat % 10 ∧
      (∀ a, ¬ Touches s.i.toNat 3 a → t.byteAt a = s.byteAt a) ∧ Frame [.mem] s t) ∧
    (s.config.addrPolicy = .fault → 0x1000 ≤ s.i.toNat + 2 →
      ∃ t, exec (.ldBVx x) s = .next t ∧ t.result = .addressOutOfRange (max s.i.toNat 0x1000) ∧ Frame [.failure] s t)

/-- Fx55: V0..Vx to I..I+x (modulo 4096 under wrap12) and to no other byte; I is unchanged; out of range nothing is written
(decisions D2 and D13, the spec's own). -/
def Obligations.RegistersAreStored : Prop :=
  ∀ (x : RegIx) (s : State),
    (∀ c, decode c (formatFK 0xF x 0x55) = .ok (.ldIndVx x)) ∧
    (InRange s s.i.toNat (x.val + 1) → ∃ t, exec (.ldIndVx x) s = .next t ∧ t.result = .ok ∧
      (∀ k : RegIx, k ≤ x → t.byteAt (physAddr (s.i.toNat + k.val)) = s.v[k]) ∧
      (∀ a, ¬ Touches s.i.toNat (x.val + 1) a → t.byteAt a = s.byteAt a) ∧ Frame [.mem] s t) ∧
    (s.config.addrPolicy = .fault → 0x1000 ≤ s.i.toNat + x.val →
      ∃ t, exec (.ldIndVx x) s = .next t ∧ t.result = .addressOutOfRange (max s.i.toNat 0x1000) ∧ Frame [.failure] s t)

/-- Fx65: V0..Vx from I..I+x (modulo 4096 under wrap12); the registers above x, I and memory are unchanged; out of range no register is
written (decisions D2 and D13, the spec's own). -/
def Obligations.RegistersAreLoaded : Prop :=
  ∀ (x : RegIx) (s : State),
    (∀ c, decode c (formatFK 0xF x 0x65) = .ok (.ldVxInd x)) ∧
    (InRange s s.i.toNat (x.val + 1) → ∃ t, exec (.ldVxInd x) s = .next t ∧ t.result = .ok ∧
      (∀ k : RegIx, k ≤ x → t.v[k] = s.byteAt (physAddr (s.i.toNat + k.val))) ∧
      Frame ((List.finRange 16).filterMap (fun k => if k ≤ x then some (Part.v k) else none)) s t) ∧
    (s.config.addrPolicy = .fault → 0x1000 ≤ s.i.toNat + x.val →
      ∃ t, exec (.ldVxInd x) s = .next t ∧ t.result = .addressOutOfRange (max s.i.toNat 0x1000) ∧ Frame [.failure] s t)

/-- Fx55 and then Fx65 with the same x, I and parameters, the stored bytes not written between, restore V0..Vx (R176, an inference the spec
draws). -/
def Obligations.DumpThenLoadRestoresRegisters : Prop :=
  ∀ (x : RegIx) (s t u : State), exec (.ldIndVx x) s = .next t → t.result = .ok → u.i = s.i → u.config = s.config →
    (∀ a, Touches s.i.toNat (x.val + 1) a → u.byteAt a = t.byteAt a) →
    ∃ w, exec (.ldVxInd x) u = .next w ∧ w.result = .ok ∧ ∀ k : RegIx, k ≤ x → w.v[k] = s.v[k]

/-! ## Display (44_display.md) -/

/-- 00E0: every pixel 0, VF unchanged. -/
def Obligations.ClearTurnsEveryPixelOff : Prop :=
  ∀ s : State,
    (∀ c, decode c 0x00E0 = .ok .cls) ∧
    ∃ t, exec .cls s = .next t ∧ t.result = .ok ∧ (∀ r c, pixel t.disp r c = false) ∧ Frame [.disp] s t

/-- Dxyn: a pixel changes exactly when a sprite bit of 1 lands on it, rows wrapping at 32 and columns at 64; VF ends 1 exactly when one landed on
a lit pixel, and 0 otherwise. The anchor is read before VF is written. Out of range no pixel and no VF is written (decisions
D2 and D7, the spec's own). -/
def Obligations.DrawXorsTheSpriteAndReportsCollision : Prop :=
  ∀ (x y : RegIx) (n : Rows) (s : State),
    (∀ c, decode c (formatFR 0xD x y (nibble n)) = .ok (.drwVxVyN x y n)) ∧
    (n = 0 ∨ InRange s s.i.toNat n.val → ∃ t, exec (.drwVxVyN x y n) s = .next t ∧ t.result = .ok ∧
      (∀ r < 32, ∀ c < 64, pixel t.disp r c ≠ pixel s.disp r c ↔ Lands s x y n r c) ∧
      (t.v[vf] = 1 ∨ t.v[vf] = 0) ∧
      (t.v[vf] = 1 ↔ ∃ r c, Lands s x y n r c ∧ pixel s.disp r c = true) ∧ Frame [.disp, .v vf] s t) ∧
    (s.config.addrPolicy = .fault → 0 < n.val → 0x1000 ≤ s.i.toNat + n.val - 1 →
      ∃ t, exec (.drwVxVyN x y n) s = .next t ∧ t.result = .addressOutOfRange (max s.i.toNat 0x1000) ∧ Frame [.failure] s t)

/-- Dxy0 draws nothing, at any I, and clears VF (R195, an inference the spec draws). -/
def Obligations.DrawOfZeroRowsClearsVF : Prop :=
  ∀ (x y : RegIx) (s : State),
    ∃ t, exec (.drwVxVyN x y 0) s = .next t ∧ t.result = .ok ∧ t.v[vf] = 0 ∧ Frame [.v vf] s t

/-- The same sprite drawn twice at the same anchor, with no other display write between, restores the display; the second draw collides exactly
when a bit of 1 covers a pixel that was 0 before the first (R196, an inference the spec draws). -/
def Obligations.DrawTwiceRestoresTheDisplay : Prop :=
  ∀ (x y : RegIx) (n : Rows) (s t u : State), exec (.drwVxVyN x y n) s = .next t → t.result = .ok →
    u.disp = t.disp → u.v[x] = s.v[x] → u.v[y] = s.v[y] → u.i = s.i → u.config = s.config →
    (∀ a, Touches s.i.toNat n.val a → u.byteAt a = s.byteAt a) →
    ∃ w, exec (.drwVxVyN x y n) u = .next w ∧ w.result = .ok ∧ w.disp = s.disp ∧
      (w.v[vf] = 1 ↔ ∃ r c, Lands s x y n r c ∧ pixel s.disp r c = false)

/-! ## Timers and keypad (45_timers_keypad.md, 60_exceptions.md sections 4 and 5) -/

/-- Fx07 reads the delay timer (decision D29, the spec's own). -/
def Obligations.ReadDelayTimerSetsVx : Prop :=
  ∀ (x : RegIx) (s : State),
    (∀ c, decode c (formatFK 0xF x 0x07) = .ok (.ldVxDt x)) ∧
    ∃ t, exec (.ldVxDt x) s = .next t ∧ t.result = .ok ∧ t.v[x] = s.dt ∧ Frame [.v x] s t

/-- Fx15 sets the delay timer and Fx18 the sound timer (the pairing is decision D29, the spec's own). -/
def Obligations.TimersAreSetFromVx : Prop :=
  ∀ (x : RegIx) (s : State),
    (∃ t, exec (.ldDtVx x) s = .next t ∧ t.result = .ok ∧ t.dt = s.v[x] ∧ Frame [.dt] s t) ∧
    (∃ t, exec (.ldStVx x) s = .next t ∧ t.result = .ok ∧ t.st = s.v[x] ∧ Frame [.st] s t)

/-- Ex9E and ExA1: a further 2 when the key Vx is down, or when it is up; a key index above 15 is reported and nothing is skipped (decision D9,
the spec's own). -/
def Obligations.SkipsOnAKey : Prop :=
  ∀ (x : RegIx) (s : State),
    (∀ h : s.v[x].toNat < 16,
      (∃ t, exec (.skpVx x) s = .next t ∧ t.result = .ok ∧
        t.pc.toNat = (if s.keys[s.v[x].toNat] = true then (s.pc.toNat + 2) % 65536 else s.pc.toNat) ∧ Frame [.pc] s t) ∧
      (∃ t, exec (.sknpVx x) s = .next t ∧ t.result = .ok ∧
        t.pc.toNat = (if s.keys[s.v[x].toNat] = false then (s.pc.toNat + 2) % 65536 else s.pc.toNat) ∧ Frame [.pc] s t)) ∧
    (15 < s.v[x].toNat →
      (∃ t, exec (.skpVx x) s = .next t ∧ t.result = .keyIndexOutOfRange s.v[x] ∧ Frame [.failure] s t) ∧
      (∃ t, exec (.sknpVx x) s = .next t ∧ t.result = .keyIndexOutOfRange s.v[x] ∧ Frame [.failure] s t))

/-- Fx0A enters the key wait and writes no register (R215, decision D8, the spec's own). -/
def Obligations.KeyWaitBegins : Prop :=
  ∀ (x : RegIx) (s : State),
    ∃ t, exec (.ldVxK x) s = .next t ∧ t.result = .ok ∧ t.mode = .awaitingKey x ∧ Frame [.mode] s t

/-- A step in the key wait: with a key down, Vx gets the least one and the mode is Running; with none, `Waiting` and no change; PC stays (R216,
decisions D8 and D23, the spec's own). -/
def Obligations.KeyWaitPollsAndEnds : Prop :=
  ∀ (x : RegIx) (s : State), s.mode = .awaitingKey x →
    (∀ k : RegIx, s.keys[k] = true → (∀ j : RegIx, j < k → s.keys[j] = false) →
      ∃ t, step s = .next t ∧ t.result = .ok ∧ t.v[x].toNat = k.val ∧ t.mode = .running ∧ Frame [.v x, .mode] s t) ∧
    ((∀ k : RegIx, s.keys[k] = false) → ∃ t, step s = .next t ∧ t.result = .waiting ∧ Frame [] s t)

/-- No step changes the key states; the host's setKey and bulk update and reset alone do, and reset clears them. Only Ex9E,
ExA1 and the key wait read them: any other step does the same with other key states. -/
def Obligations.TheExecutorNeverWritesKeys : Prop :=
  (∀ s t : State, step s = .next t → t.keys = s.keys) ∧
  (∀ (tr : Transaction) (s : State), (transact tr s).1.keys ≠ s.keys →
    tr = .reset ∨ (∃ k b, tr = .setKey k b) ∨ ∃ k, tr = .updateKeys k) ∧
  (∀ (s : State) (k : RegIx), (transact .reset s).1.keys[k] = false) ∧
  ∀ (s t : State) (keys : Vector Bool 16), s.mode = .running →
    (∀ op x, s.fetch = .ok op → decode s.config op ≠ .ok (.skpVx x) ∧ decode s.config op ≠ .ok (.sknpVx x)) → step s = .next t →
    step (s.setKeys keys) = .next (t.setKeys keys)

/-- A tick takes 1 from each timer that is not 0, in either mode, and changes nothing else (R242, decision D23, the spec's own). -/
def Obligations.TickCountsTimersDownToZero : Prop :=
  ∀ s : State,
    s.tickTimersPort.dt.toNat = s.dt.toNat - 1 ∧ s.tickTimersPort.st.toNat = s.st.toNat - 1 ∧
    Frame [.dt, .st] s s.tickTimersPort

/-- The snapshot returns the display, soundActive whether ST is above 0, and peek the value of the component it names; none changes the state.
(The forms in which peek names a component and gives its value are the model's, log entry 26.) -/
def Obligations.SnapshotAndSoundReadOnly : Prop :=
  ∀ s : State,
    transact .displaySnapshot s = (s, .snapshot s.disp) ∧
    (∃ b, transact .soundActive s = (s, .sound b) ∧ (b = true ↔ 0 < s.st.toNat)) ∧
    (∀ a, transact (.peek (.mem a)) s = (s, .peeked (.byte (s.byteAt a)))) ∧
    (∀ x, transact (.peek (.v x)) s = (s, .peeked (.byte s.v[x]))) ∧
    transact (.peek .i) s = (s, .peeked (.word s.i)) ∧ transact (.peek .pc) s = (s, .peeked (.word s.pc)) ∧
    (∀ j, transact (.peek (.stack j)) s = (s, .peeked (.word s.stack[j]))) ∧
    transact (.peek .sp) s = (s, .peeked (.count s.sp.val)) ∧
    transact (.peek .dt) s = (s, .peeked (.byte s.dt)) ∧ transact (.peek .st) s = (s, .peeked (.byte s.st)) ∧
    (∀ r c, transact (.peek (.disp r c)) s = (s, .peeked (.bit (pixel s.disp r c)))) ∧
    (∀ k, transact (.peek (.key k)) s = (s, .peeked (.bit s.keys[k]))) ∧
    transact (.peek .mode) s = (s, .peeked (.mode s.mode))

/-- setKey writes one key state for an index in 0..15 and is refused otherwise (decision D18, the spec's own); the bulk update writes all 16;
neither changes anything else. -/
def Obligations.KeysAreSetByTheHost : Prop :=
  ∀ s : State,
    (∀ (k : RegIx) (pressed : Bool), ∃ t, transact (.setKey k.val pressed) s = (t, .noReply) ∧ t.keys[k] = pressed ∧
      (∀ j : RegIx, j ≠ k → t.keys[j] = s.keys[j]) ∧ Frame [.keys] s t) ∧
    (∀ (index : Nat) (pressed : Bool), 16 ≤ index → transact (.setKey index pressed) s = (s, .keyRefused)) ∧
    (∀ keys : Vector Bool 16, ∃ t, transact (.updateKeys keys) s = (t, .noReply) ∧ t.keys = keys ∧ Frame [.keys] s t)

/-! ## What only certain instructions may do (10_state.md, 20_memory.md section 4) -/

/-- Of all instructions, Fx33 and Fx55 alone change memory, and only in the bytes they address. Of all transactions, a step that runs one of
them, a load that is not rejected, in the bytes it copies to, and reset alone do. -/
def Obligations.OnlyTheStoresWriteMemory : Prop :=
  (∀ (i : Instr) (s t : State) (a : Nat), exec i s = .next t → t.byteAt a ≠ s.byteAt a →
    ((∃ x, i = .ldBVx x) ∨ ∃ x, i = .ldIndVx x) ∧ Touches s.i.toNat (accessLength i) a) ∧
  ∀ (tr : Transaction) (s : State) (a : Nat), (transact tr s).1.byteAt a ≠ s.byteAt a →
    tr = .reset ∨ (∃ rom, tr = .load rom ∧ rom.length ≤ 3584 ∧ 0x200 ≤ a ∧ a < 0x200 + rom.length) ∨
    (tr = .step ∧ ((∃ x, Runs s (.ldBVx x) ∧ Touches s.i.toNat 3 a) ∨ ∃ x, Runs s (.ldIndVx x) ∧ Touches s.i.toNat (x.val + 1) a))

/-- The display is changed by Dxyn and 00E0 alone, of all steps. -/
def Obligations.OnlyDrawAndClearWriteTheDisplay : Prop :=
  ∀ s t : State, step s = .next t → t.disp ≠ s.disp →
    ∃ op, s.fetch = .ok op ∧ (decode s.config op = .ok .cls ∨ ∃ x y n, decode s.config op = .ok (.drwVxVyN x y n))

/-- Of all instructions, only 2nnn writes the return stack and only 00EE reads it: any other does the same with other stack entries. -/
def Obligations.OnlyCallWritesAndReturnReadsTheStack : Prop :=
  ∀ (i : Instr) (s t : State), exec i s = .next t →
    (t.stack ≠ s.stack → ∃ nnn, i = .callNnn nnn) ∧
    (i ≠ .ret → ∀ stack : Vector Word 16, ∃ t', exec i (s.setStack stack) = .next t' ∧ t'.setStack t.stack = t)

/-- VF changes as a side effect of 8xy4 to 8xy7, 8xyE and Dxyn alone; any other instruction that changes VF names it as its destination (R22,
with decision D6, the spec's own). -/
def Obligations.OnlyFlagInstructionsChangeVFAsAFlag : Prop :=
  ∀ (i : Instr) (s t : State), exec i s = .next t → t.v[vf] ≠ s.v[vf] →
    match i with
    | .addVxVy _ _ => True
    | .subVxVy _ _ => True
    | .shrVx _ _ => True
    | .subnVxVy _ _ => True
    | .shlVx _ _ => True
    | .drwVxVyN _ _ _ => True
    | .ldVxKk x _ => x = vf
    | .addVxKk x _ => x = vf
    | .ldVxVy x _ => x = vf
    | .orVxVy x _ => x = vf
    | .andVxVy x _ => x = vf
    | .xorVxVy x _ => x = vf
    | .rndVxKk x _ => x = vf
    | .ldVxDt x => x = vf
    | .ldVxInd x => x = vf
    | _ => False

/-- Of all instructions, those the spec lists alone change I, the timers, SP and the wait state; of all transactions, a step that runs one of
them, the tick (the timers), the poll that finds a key down (the wait state) and reset alone do; none changes the parameters (R24, R29, R31,
R37, R242, R216). That Fx15 goes with the delay timer and Fx18 with the sound timer is decision D29 (log entry 22); the key wait is decision
D8 (log entry 5); both are the spec's own. -/
def Obligations.SpecialStateHasTheStatedWriters : Prop :=
  (∀ (i : Instr) (s t : State), exec i s = .next t →
    (t.i ≠ s.i → (∃ nnn, i = .ldINnn nnn) ∨ (∃ x, i = .addIVx x) ∨ ∃ x, i = .ldFVx x) ∧
    (t.dt ≠ s.dt → ∃ x, i = .ldDtVx x) ∧ (t.st ≠ s.st → ∃ x, i = .ldStVx x) ∧
    (t.sp ≠ s.sp → i = .ret ∨ ∃ nnn, i = .callNnn nnn) ∧
    (t.mode ≠ s.mode → ∃ x, i = .ldVxK x ∧ t.mode = .awaitingKey x) ∧ t.config = s.config) ∧
  ∀ (tr : Transaction) (s t : State), (transact tr s).1 = t →
    (t.i ≠ s.i → tr = .reset ∨
      tr = .step ∧ ((∃ nnn, Runs s (.ldINnn nnn)) ∨ (∃ x, Runs s (.addIVx x)) ∨ ∃ x, Runs s (.ldFVx x))) ∧
    (t.dt ≠ s.dt → tr = .reset ∨ tr = .tickTimers ∨ tr = .step ∧ ∃ x, Runs s (.ldDtVx x)) ∧
    (t.st ≠ s.st → tr = .reset ∨ tr = .tickTimers ∨ tr = .step ∧ ∃ x, Runs s (.ldStVx x)) ∧
    (t.sp ≠ s.sp → tr = .reset ∨ tr = .step ∧ (Runs s .ret ∨ ∃ nnn, Runs s (.callNnn nnn))) ∧
    (t.mode ≠ s.mode → tr = .reset ∨ tr = .step ∧
      ((∃ x, Runs s (.ldVxK x) ∧ t.mode = .awaitingKey x) ∨
       ∃ (x : RegIx) (k : RegIx), s.mode = .awaitingKey x ∧ s.keys[k] = true ∧ t.mode = .running)) ∧
    t.config = s.config
end

