-- ==== Sys2Proof/Laws/Decode.lean ====
section
/-! SUPPORT. The fields of the formats (30_encoding.md R72), one lemma per field per format, and the table's rows: no two overlap (R75). -/

namespace Sys2Proof

@[simp] theorem nibble_toFin (k : Fin 16) : (nibble k).toFin = k := rfl

@[simp] theorem nibble_toNat (k : Fin 16) : (nibble k).toNat = k.val := rfl

/-! ### Format FA -/

@[simp] theorem fieldO_formatFA (o : BitVec 4) (nnn : Addr) : fieldO (formatFA o nnn) = o := by
  apply BitVec.eq_of_getLsbD_eq
  intro i hi
  simp only [fieldO, formatFA, BitVec.getLsbD_extractLsb', BitVec.getLsbD_append]
  interval_cases i <;> simp

@[simp] theorem fieldNnn_formatFA (o : BitVec 4) (nnn : Addr) : fieldNnn (formatFA o nnn) = nnn := by
  apply BitVec.eq_of_getLsbD_eq
  intro i hi
  simp only [fieldNnn, formatFA, BitVec.getLsbD_extractLsb', BitVec.getLsbD_append]
  interval_cases i <;> simp

/-! ### Formats FK and FX -/

@[simp] theorem fieldO_formatFK (o : BitVec 4) (x : RegIx) (kk : Byte) : fieldO (formatFK o x kk) = o := by
  apply BitVec.eq_of_getLsbD_eq
  intro i hi
  simp only [fieldO, formatFK, BitVec.getLsbD_extractLsb', BitVec.getLsbD_append]
  interval_cases i <;> simp

@[simp] theorem fieldX_formatFK (o : BitVec 4) (x : RegIx) (kk : Byte) : fieldX (formatFK o x kk) = x := by
  have : (formatFK o x kk).extractLsb' 8 4 = nibble x := by
    apply BitVec.eq_of_getLsbD_eq
    intro i hi
    simp only [formatFK, BitVec.getLsbD_extractLsb', BitVec.getLsbD_append]
    interval_cases i <;> simp
  rw [fieldX, this, nibble_toFin]

@[simp] theorem fieldKk_formatFK (o : BitVec 4) (x : RegIx) (kk : Byte) : fieldKk (formatFK o x kk) = kk := by
  apply BitVec.eq_of_getLsbD_eq
  intro i hi
  simp only [fieldKk, formatFK, BitVec.getLsbD_extractLsb', BitVec.getLsbD_append]
  interval_cases i <;> simp

/-! ### Formats FR and FD -/

@[simp] theorem fieldO_formatFR (o : BitVec 4) (x y : RegIx) (f : BitVec 4) : fieldO (formatFR o x y f) = o := by
  apply BitVec.eq_of_getLsbD_eq
  intro i hi
  simp only [fieldO, formatFR, BitVec.getLsbD_extractLsb', BitVec.getLsbD_append]
  interval_cases i <;> simp

@[simp] theorem fieldX_formatFR (o : BitVec 4) (x y : RegIx) (f : BitVec 4) : fieldX (formatFR o x y f) = x := by
  have : (formatFR o x y f).extractLsb' 8 4 = nibble x := by
    apply BitVec.eq_of_getLsbD_eq
    intro i hi
    simp only [formatFR, BitVec.getLsbD_extractLsb', BitVec.getLsbD_append]
    interval_cases i <;> simp
  rw [fieldX, this, nibble_toFin]

@[simp] theorem fieldY_formatFR (o : BitVec 4) (x y : RegIx) (f : BitVec 4) : fieldY (formatFR o x y f) = y := by
  have : (formatFR o x y f).extractLsb' 4 4 = nibble y := by
    apply BitVec.eq_of_getLsbD_eq
    intro i hi
    simp only [formatFR, BitVec.getLsbD_extractLsb', BitVec.getLsbD_append]
    interval_cases i <;> simp
  rw [fieldY, this, nibble_toFin]

@[simp] theorem fieldN_formatFR (o : BitVec 4) (x y : RegIx) (f : BitVec 4) : fieldN (formatFR o x y f) = f.toFin := by
  have : (formatFR o x y f).extractLsb' 0 4 = f := by
    apply BitVec.eq_of_getLsbD_eq
    intro i hi
    simp only [formatFR, BitVec.getLsbD_extractLsb', BitVec.getLsbD_append]
    interval_cases i <;> simp
  rw [fieldN, this]

/-! ### A word is its fields -/

theorem eq_formatFA (op : Word) : op = formatFA (fieldO op) (fieldNnn op) := by
  apply BitVec.eq_of_getLsbD_eq
  intro i hi
  simp only [fieldO, fieldNnn, formatFA, BitVec.getLsbD_extractLsb', BitVec.getLsbD_append]
  interval_cases i <;> simp

theorem eq_formatFK (op : Word) : op = formatFK (fieldO op) (fieldX op) (fieldKk op) := by
  apply BitVec.eq_of_getLsbD_eq
  intro i hi
  have hx : nibble (fieldX op) = op.extractLsb' 8 4 := rfl
  simp only [fieldO, hx, fieldKk, formatFK, BitVec.getLsbD_extractLsb', BitVec.getLsbD_append]
  interval_cases i <;> simp

theorem eq_formatFR (op : Word) : op = formatFR (fieldO op) (fieldX op) (fieldY op) (nibble (fieldN op)) := by
  apply BitVec.eq_of_getLsbD_eq
  intro i hi
  have hx : nibble (fieldX op) = op.extractLsb' 8 4 := rfl
  have hy : nibble (fieldY op) = op.extractLsb' 4 4 := rfl
  have hn : nibble (fieldN op) = op.extractLsb' 0 4 := rfl
  simp only [fieldO, hx, hy, hn, formatFR, BitVec.getLsbD_extractLsb', BitVec.getLsbD_append]
  interval_cases i <;> simp

/-! ### The bytes of a word (20_memory.md R53) -/

@[simp] theorem wordOfBytes_highByte_lowByte (op : Word) : wordOfBytes (highByte op) (lowByte op) = op := by
  apply BitVec.eq_of_getLsbD_eq
  intro i hi
  simp only [wordOfBytes, highByte, lowByte, BitVec.getLsbD_extractLsb', BitVec.getLsbD_append]
  interval_cases i <;> simp

theorem wordOfBytes_toNat (hi lo : Byte) : (wordOfBytes hi lo).toNat = hi.toNat * 256 + lo.toNat := by
  rw [wordOfBytes, BitVec.toNat_append, Nat.shiftLeft_eq, Nat.mul_comm, ← Nat.two_pow_add_eq_or_of_lt lo.isLt, Nat.mul_comm]

/-! ### The table -/

theorem formatFA_and (o : BitVec 4) (nnn : Addr) : formatFA o nnn &&& 0xF000 = formatFA o 0 := by
  apply BitVec.eq_of_getLsbD_eq
  intro i hi
  simp only [formatFA, BitVec.getLsbD_and, BitVec.getLsbD_append]
  interval_cases i <;> simp

theorem formatFK_and_family (o : BitVec 4) (x : RegIx) (kk : Byte) : formatFK o x kk &&& 0xF000 = formatFA o 0 := by
  apply BitVec.eq_of_getLsbD_eq
  intro i hi
  simp only [formatFK, formatFA, BitVec.getLsbD_and, BitVec.getLsbD_append]
  interval_cases i <;> simp [nibble]

theorem formatFK_and (o : BitVec 4) (x : RegIx) (kk : Byte) : formatFK o x kk &&& 0xF0FF = formatFK o 0 kk := by
  apply BitVec.eq_of_getLsbD_eq
  intro i hi
  simp only [formatFK, BitVec.getLsbD_and, BitVec.getLsbD_append]
  interval_cases i <;> simp [nibble]

theorem formatFR_and_family (o : BitVec 4) (x y : RegIx) (f : BitVec 4) : formatFR o x y f &&& 0xF000 = formatFA o 0 := by
  apply BitVec.eq_of_getLsbD_eq
  intro i hi
  simp only [formatFR, formatFA, BitVec.getLsbD_and, BitVec.getLsbD_append]
  interval_cases i <;> simp [nibble]

theorem formatFR_and (o : BitVec 4) (x y : RegIx) (f : BitVec 4) : formatFR o x y f &&& 0xF00F = formatFR o 0 0 f := by
  apply BitVec.eq_of_getLsbD_eq
  intro i hi
  simp only [formatFR, BitVec.getLsbD_and, BitVec.getLsbD_append]
  interval_cases i <;> simp [nibble]

/-- No word is of two rows: wherever two rows stand, their patterns differ in a bit both masks fix (R75). -/
theorem opcodeTable_disjoint :
    opcodeTable.Pairwise (fun r q => (r.pattern ^^^ q.pattern) &&& r.mask &&& q.mask ≠ 0) := by
  decide

end Sys2Proof
end

