-- ==== Sys2Proof/Laws/Display.lean ====
section
/-! SUPPORT. The display: one pixel written changes that pixel alone, and what one plotted bit and one plotted row do. -/

namespace Sys2Proof.Machine

theorem pixel_setPixel (d : Display) (r c r' c' : Nat) (b : Bool) :
    pixel (setPixel d r c b) r' c' = if r' % 32 = r % 32 ∧ c' % 64 = c % 64 then b else pixel d r' c' := by
  unfold pixel setPixel
  by_cases hr : r % 32 = r' % 32
  · by_cases hc : c % 64 = c' % 64 <;> simp [hr, hc, eq_comm]
  · simp [hr, eq_comm]

@[simp] theorem pixel_clearDisplay (r c : Nat) : pixel clearDisplay r c = false := by
  simp [pixel, clearDisplay]

/-- Displays with the same 2048 pixels are equal. -/
theorem display_ext {d e : Display} (h : ∀ r < 32, ∀ c < 64, pixel d r c = pixel e r c) : d = e := by
  refine Vector.ext fun r hr => Vector.ext fun c hc => ?_
  simpa [pixel, Nat.mod_eq_of_lt hr, Nat.mod_eq_of_lt hc] using h r hr c hc

theorem pixel_plotBit (p : Plot) (r c r' c' : Nat) :
    pixel (plotBit p r c).disp r' c' =
      ((pixel p.disp r' c') ^^ decide (r' % 32 = r % 32 ∧ c' % 64 = c % 64)) := by
  rw [plotBit, pixel_setPixel]
  by_cases h : r' % 32 = r % 32 ∧ c' % 64 = c % 64
  · simp only [h, and_self, if_true, decide_true, Bool.xor_true, pixel]
  · simp [h]

theorem plotBit_hit (p : Plot) (r c : Nat) : (plotBit p r c).hit = (p.hit || pixel p.disp r c) := rfl

/-- The first `count` columns of a sprite row, from column offset 0. -/
theorem plotRow_eq_foldl (p : Plot) (r cx : Nat) (b : Byte) :
    plotRow p r cx b = (List.range 8).foldl (fun p c => if b.getLsbD (7 - c) then plotBit p r (cx + c) else p) p := rfl

theorem plotRows_append (p : Plot) (cy cx : Nat) (rows rest : List Byte) :
    plotRows p cy cx (rows ++ rest) = plotRows (plotRows p cy cx rows) (cy + rows.length) cx rest := by
  induction rows generalizing p cy with
  | nil => rfl
  | cons b bs ih => simp [plotRows, ih, Nat.add_assoc, Nat.add_comm 1]

end Sys2Proof.Machine
end

