-- ==== Sys2Proof/Laws/State.lean ====
section
/-! SUPPORT. The fields of a state after each named update, one lemma per field per update, so that no proof unfolds a record update. -/

namespace Sys2Proof.Machine

variable (s : State)

/-! `memWrite` -/

@[simp] theorem State.memWrite_mem (a : Nat) (b : Byte) : (s.memWrite a b).mem = Memory.write (initialByte s.config) s.mem (physAddr a) b := rfl
@[simp] theorem State.memWrite_v (a : Nat) (b : Byte) : (s.memWrite a b).v = s.v := rfl
@[simp] theorem State.memWrite_i (a : Nat) (b : Byte) : (s.memWrite a b).i = s.i := rfl
@[simp] theorem State.memWrite_pc (a : Nat) (b : Byte) : (s.memWrite a b).pc = s.pc := rfl
@[simp] theorem State.memWrite_stack (a : Nat) (b : Byte) : (s.memWrite a b).stack = s.stack := rfl
@[simp] theorem State.memWrite_sp (a : Nat) (b : Byte) : (s.memWrite a b).sp = s.sp := rfl
@[simp] theorem State.memWrite_dt (a : Nat) (b : Byte) : (s.memWrite a b).dt = s.dt := rfl
@[simp] theorem State.memWrite_st (a : Nat) (b : Byte) : (s.memWrite a b).st = s.st := rfl
@[simp] theorem State.memWrite_disp (a : Nat) (b : Byte) : (s.memWrite a b).disp = s.disp := rfl
@[simp] theorem State.memWrite_keys (a : Nat) (b : Byte) : (s.memWrite a b).keys = s.keys := rfl
@[simp] theorem State.memWrite_mode (a : Nat) (b : Byte) : (s.memWrite a b).mode = s.mode := rfl
@[simp] theorem State.memWrite_config (a : Nat) (b : Byte) : (s.memWrite a b).config = s.config := rfl
@[simp] theorem State.memWrite_draws (a : Nat) (b : Byte) : (s.memWrite a b).draws = s.draws := rfl
@[simp] theorem State.memWrite_result (a : Nat) (b : Byte) : (s.memWrite a b).result = s.result := rfl
@[simp] theorem State.memWrite_firstFailure (a : Nat) (b : Byte) : (s.memWrite a b).firstFailure = s.firstFailure := rfl

/-! `setV` -/

@[simp] theorem State.setV_mem (x : RegIx) (b : Byte) : (s.setV x b).mem = s.mem := rfl
@[simp] theorem State.setV_v (x : RegIx) (b : Byte) : (s.setV x b).v = s.v.set x b := rfl
@[simp] theorem State.setV_i (x : RegIx) (b : Byte) : (s.setV x b).i = s.i := rfl
@[simp] theorem State.setV_pc (x : RegIx) (b : Byte) : (s.setV x b).pc = s.pc := rfl
@[simp] theorem State.setV_stack (x : RegIx) (b : Byte) : (s.setV x b).stack = s.stack := rfl
@[simp] theorem State.setV_sp (x : RegIx) (b : Byte) : (s.setV x b).sp = s.sp := rfl
@[simp] theorem State.setV_dt (x : RegIx) (b : Byte) : (s.setV x b).dt = s.dt := rfl
@[simp] theorem State.setV_st (x : RegIx) (b : Byte) : (s.setV x b).st = s.st := rfl
@[simp] theorem State.setV_disp (x : RegIx) (b : Byte) : (s.setV x b).disp = s.disp := rfl
@[simp] theorem State.setV_keys (x : RegIx) (b : Byte) : (s.setV x b).keys = s.keys := rfl
@[simp] theorem State.setV_mode (x : RegIx) (b : Byte) : (s.setV x b).mode = s.mode := rfl
@[simp] theorem State.setV_config (x : RegIx) (b : Byte) : (s.setV x b).config = s.config := rfl
@[simp] theorem State.setV_draws (x : RegIx) (b : Byte) : (s.setV x b).draws = s.draws := rfl
@[simp] theorem State.setV_result (x : RegIx) (b : Byte) : (s.setV x b).result = s.result := rfl
@[simp] theorem State.setV_firstFailure (x : RegIx) (b : Byte) : (s.setV x b).firstFailure = s.firstFailure := rfl

/-! `setI` -/

@[simp] theorem State.setI_mem (w : Word) : (s.setI w).mem = s.mem := rfl
@[simp] theorem State.setI_v (w : Word) : (s.setI w).v = s.v := rfl
@[simp] theorem State.setI_i (w : Word) : (s.setI w).i = w := rfl
@[simp] theorem State.setI_pc (w : Word) : (s.setI w).pc = s.pc := rfl
@[simp] theorem State.setI_stack (w : Word) : (s.setI w).stack = s.stack := rfl
@[simp] theorem State.setI_sp (w : Word) : (s.setI w).sp = s.sp := rfl
@[simp] theorem State.setI_dt (w : Word) : (s.setI w).dt = s.dt := rfl
@[simp] theorem State.setI_st (w : Word) : (s.setI w).st = s.st := rfl
@[simp] theorem State.setI_disp (w : Word) : (s.setI w).disp = s.disp := rfl
@[simp] theorem State.setI_keys (w : Word) : (s.setI w).keys = s.keys := rfl
@[simp] theorem State.setI_mode (w : Word) : (s.setI w).mode = s.mode := rfl
@[simp] theorem State.setI_config (w : Word) : (s.setI w).config = s.config := rfl
@[simp] theorem State.setI_draws (w : Word) : (s.setI w).draws = s.draws := rfl
@[simp] theorem State.setI_result (w : Word) : (s.setI w).result = s.result := rfl
@[simp] theorem State.setI_firstFailure (w : Word) : (s.setI w).firstFailure = s.firstFailure := rfl

/-! `setPc` -/

@[simp] theorem State.setPc_mem (w : Word) : (s.setPc w).mem = s.mem := rfl
@[simp] theorem State.setPc_v (w : Word) : (s.setPc w).v = s.v := rfl
@[simp] theorem State.setPc_i (w : Word) : (s.setPc w).i = s.i := rfl
@[simp] theorem State.setPc_pc (w : Word) : (s.setPc w).pc = w := rfl
@[simp] theorem State.setPc_stack (w : Word) : (s.setPc w).stack = s.stack := rfl
@[simp] theorem State.setPc_sp (w : Word) : (s.setPc w).sp = s.sp := rfl
@[simp] theorem State.setPc_dt (w : Word) : (s.setPc w).dt = s.dt := rfl
@[simp] theorem State.setPc_st (w : Word) : (s.setPc w).st = s.st := rfl
@[simp] theorem State.setPc_disp (w : Word) : (s.setPc w).disp = s.disp := rfl
@[simp] theorem State.setPc_keys (w : Word) : (s.setPc w).keys = s.keys := rfl
@[simp] theorem State.setPc_mode (w : Word) : (s.setPc w).mode = s.mode := rfl
@[simp] theorem State.setPc_config (w : Word) : (s.setPc w).config = s.config := rfl
@[simp] theorem State.setPc_draws (w : Word) : (s.setPc w).draws = s.draws := rfl
@[simp] theorem State.setPc_result (w : Word) : (s.setPc w).result = s.result := rfl
@[simp] theorem State.setPc_firstFailure (w : Word) : (s.setPc w).firstFailure = s.firstFailure := rfl

/-! `setDt` -/

@[simp] theorem State.setDt_mem (b : Byte) : (s.setDt b).mem = s.mem := rfl
@[simp] theorem State.setDt_v (b : Byte) : (s.setDt b).v = s.v := rfl
@[simp] theorem State.setDt_i (b : Byte) : (s.setDt b).i = s.i := rfl
@[simp] theorem State.setDt_pc (b : Byte) : (s.setDt b).pc = s.pc := rfl
@[simp] theorem State.setDt_stack (b : Byte) : (s.setDt b).stack = s.stack := rfl
@[simp] theorem State.setDt_sp (b : Byte) : (s.setDt b).sp = s.sp := rfl
@[simp] theorem State.setDt_dt (b : Byte) : (s.setDt b).dt = b := rfl
@[simp] theorem State.setDt_st (b : Byte) : (s.setDt b).st = s.st := rfl
@[simp] theorem State.setDt_disp (b : Byte) : (s.setDt b).disp = s.disp := rfl
@[simp] theorem State.setDt_keys (b : Byte) : (s.setDt b).keys = s.keys := rfl
@[simp] theorem State.setDt_mode (b : Byte) : (s.setDt b).mode = s.mode := rfl
@[simp] theorem State.setDt_config (b : Byte) : (s.setDt b).config = s.config := rfl
@[simp] theorem State.setDt_draws (b : Byte) : (s.setDt b).draws = s.draws := rfl
@[simp] theorem State.setDt_result (b : Byte) : (s.setDt b).result = s.result := rfl
@[simp] theorem State.setDt_firstFailure (b : Byte) : (s.setDt b).firstFailure = s.firstFailure := rfl

/-! `setSt` -/

@[simp] theorem State.setSt_mem (b : Byte) : (s.setSt b).mem = s.mem := rfl
@[simp] theorem State.setSt_v (b : Byte) : (s.setSt b).v = s.v := rfl
@[simp] theorem State.setSt_i (b : Byte) : (s.setSt b).i = s.i := rfl
@[simp] theorem State.setSt_pc (b : Byte) : (s.setSt b).pc = s.pc := rfl
@[simp] theorem State.setSt_stack (b : Byte) : (s.setSt b).stack = s.stack := rfl
@[simp] theorem State.setSt_sp (b : Byte) : (s.setSt b).sp = s.sp := rfl
@[simp] theorem State.setSt_dt (b : Byte) : (s.setSt b).dt = s.dt := rfl
@[simp] theorem State.setSt_st (b : Byte) : (s.setSt b).st = b := rfl
@[simp] theorem State.setSt_disp (b : Byte) : (s.setSt b).disp = s.disp := rfl
@[simp] theorem State.setSt_keys (b : Byte) : (s.setSt b).keys = s.keys := rfl
@[simp] theorem State.setSt_mode (b : Byte) : (s.setSt b).mode = s.mode := rfl
@[simp] theorem State.setSt_config (b : Byte) : (s.setSt b).config = s.config := rfl
@[simp] theorem State.setSt_draws (b : Byte) : (s.setSt b).draws = s.draws := rfl
@[simp] theorem State.setSt_result (b : Byte) : (s.setSt b).result = s.result := rfl
@[simp] theorem State.setSt_firstFailure (b : Byte) : (s.setSt b).firstFailure = s.firstFailure := rfl

/-! `setDisp` -/

@[simp] theorem State.setDisp_mem (d : Display) : (s.setDisp d).mem = s.mem := rfl
@[simp] theorem State.setDisp_v (d : Display) : (s.setDisp d).v = s.v := rfl
@[simp] theorem State.setDisp_i (d : Display) : (s.setDisp d).i = s.i := rfl
@[simp] theorem State.setDisp_pc (d : Display) : (s.setDisp d).pc = s.pc := rfl
@[simp] theorem State.setDisp_stack (d : Display) : (s.setDisp d).stack = s.stack := rfl
@[simp] theorem State.setDisp_sp (d : Display) : (s.setDisp d).sp = s.sp := rfl
@[simp] theorem State.setDisp_dt (d : Display) : (s.setDisp d).dt = s.dt := rfl
@[simp] theorem State.setDisp_st (d : Display) : (s.setDisp d).st = s.st := rfl
@[simp] theorem State.setDisp_disp (d : Display) : (s.setDisp d).disp = d := rfl
@[simp] theorem State.setDisp_keys (d : Display) : (s.setDisp d).keys = s.keys := rfl
@[simp] theorem State.setDisp_mode (d : Display) : (s.setDisp d).mode = s.mode := rfl
@[simp] theorem State.setDisp_config (d : Display) : (s.setDisp d).config = s.config := rfl
@[simp] theorem State.setDisp_draws (d : Display) : (s.setDisp d).draws = s.draws := rfl
@[simp] theorem State.setDisp_result (d : Display) : (s.setDisp d).result = s.result := rfl
@[simp] theorem State.setDisp_firstFailure (d : Display) : (s.setDisp d).firstFailure = s.firstFailure := rfl

/-! `setMode` -/

@[simp] theorem State.setMode_mem (m : Mode) : (s.setMode m).mem = s.mem := rfl
@[simp] theorem State.setMode_v (m : Mode) : (s.setMode m).v = s.v := rfl
@[simp] theorem State.setMode_i (m : Mode) : (s.setMode m).i = s.i := rfl
@[simp] theorem State.setMode_pc (m : Mode) : (s.setMode m).pc = s.pc := rfl
@[simp] theorem State.setMode_stack (m : Mode) : (s.setMode m).stack = s.stack := rfl
@[simp] theorem State.setMode_sp (m : Mode) : (s.setMode m).sp = s.sp := rfl
@[simp] theorem State.setMode_dt (m : Mode) : (s.setMode m).dt = s.dt := rfl
@[simp] theorem State.setMode_st (m : Mode) : (s.setMode m).st = s.st := rfl
@[simp] theorem State.setMode_disp (m : Mode) : (s.setMode m).disp = s.disp := rfl
@[simp] theorem State.setMode_keys (m : Mode) : (s.setMode m).keys = s.keys := rfl
@[simp] theorem State.setMode_mode (m : Mode) : (s.setMode m).mode = m := rfl
@[simp] theorem State.setMode_config (m : Mode) : (s.setMode m).config = s.config := rfl
@[simp] theorem State.setMode_draws (m : Mode) : (s.setMode m).draws = s.draws := rfl
@[simp] theorem State.setMode_result (m : Mode) : (s.setMode m).result = s.result := rfl
@[simp] theorem State.setMode_firstFailure (m : Mode) : (s.setMode m).firstFailure = s.firstFailure := rfl

/-! `setKeys` -/

@[simp] theorem State.setKeys_mem (k : Vector Bool 16) : (s.setKeys k).mem = s.mem := rfl
@[simp] theorem State.setKeys_v (k : Vector Bool 16) : (s.setKeys k).v = s.v := rfl
@[simp] theorem State.setKeys_i (k : Vector Bool 16) : (s.setKeys k).i = s.i := rfl
@[simp] theorem State.setKeys_pc (k : Vector Bool 16) : (s.setKeys k).pc = s.pc := rfl
@[simp] theorem State.setKeys_stack (k : Vector Bool 16) : (s.setKeys k).stack = s.stack := rfl
@[simp] theorem State.setKeys_sp (k : Vector Bool 16) : (s.setKeys k).sp = s.sp := rfl
@[simp] theorem State.setKeys_dt (k : Vector Bool 16) : (s.setKeys k).dt = s.dt := rfl
@[simp] theorem State.setKeys_st (k : Vector Bool 16) : (s.setKeys k).st = s.st := rfl
@[simp] theorem State.setKeys_disp (k : Vector Bool 16) : (s.setKeys k).disp = s.disp := rfl
@[simp] theorem State.setKeys_keys (k : Vector Bool 16) : (s.setKeys k).keys = k := rfl
@[simp] theorem State.setKeys_mode (k : Vector Bool 16) : (s.setKeys k).mode = s.mode := rfl
@[simp] theorem State.setKeys_config (k : Vector Bool 16) : (s.setKeys k).config = s.config := rfl
@[simp] theorem State.setKeys_draws (k : Vector Bool 16) : (s.setKeys k).draws = s.draws := rfl
@[simp] theorem State.setKeys_result (k : Vector Bool 16) : (s.setKeys k).result = s.result := rfl
@[simp] theorem State.setKeys_firstFailure (k : Vector Bool 16) : (s.setKeys k).firstFailure = s.firstFailure := rfl

/-! `setRegs` -/

@[simp] theorem State.setRegs_mem (bytes : List Byte) : (s.setRegs bytes).mem = s.mem := rfl
@[simp] theorem State.setRegs_v (bytes : List Byte) : (s.setRegs bytes).v = loadRegs s.v 0 bytes := rfl
@[simp] theorem State.setRegs_i (bytes : List Byte) : (s.setRegs bytes).i = s.i := rfl
@[simp] theorem State.setRegs_pc (bytes : List Byte) : (s.setRegs bytes).pc = s.pc := rfl
@[simp] theorem State.setRegs_stack (bytes : List Byte) : (s.setRegs bytes).stack = s.stack := rfl
@[simp] theorem State.setRegs_sp (bytes : List Byte) : (s.setRegs bytes).sp = s.sp := rfl
@[simp] theorem State.setRegs_dt (bytes : List Byte) : (s.setRegs bytes).dt = s.dt := rfl
@[simp] theorem State.setRegs_st (bytes : List Byte) : (s.setRegs bytes).st = s.st := rfl
@[simp] theorem State.setRegs_disp (bytes : List Byte) : (s.setRegs bytes).disp = s.disp := rfl
@[simp] theorem State.setRegs_keys (bytes : List Byte) : (s.setRegs bytes).keys = s.keys := rfl
@[simp] theorem State.setRegs_mode (bytes : List Byte) : (s.setRegs bytes).mode = s.mode := rfl
@[simp] theorem State.setRegs_config (bytes : List Byte) : (s.setRegs bytes).config = s.config := rfl
@[simp] theorem State.setRegs_draws (bytes : List Byte) : (s.setRegs bytes).draws = s.draws := rfl
@[simp] theorem State.setRegs_result (bytes : List Byte) : (s.setRegs bytes).result = s.result := rfl
@[simp] theorem State.setRegs_firstFailure (bytes : List Byte) : (s.setRegs bytes).firstFailure = s.firstFailure := rfl

/-! `countDraw` -/

@[simp] theorem State.countDraw_mem : (s.countDraw).mem = s.mem := rfl
@[simp] theorem State.countDraw_v : (s.countDraw).v = s.v := rfl
@[simp] theorem State.countDraw_i : (s.countDraw).i = s.i := rfl
@[simp] theorem State.countDraw_pc : (s.countDraw).pc = s.pc := rfl
@[simp] theorem State.countDraw_stack : (s.countDraw).stack = s.stack := rfl
@[simp] theorem State.countDraw_sp : (s.countDraw).sp = s.sp := rfl
@[simp] theorem State.countDraw_dt : (s.countDraw).dt = s.dt := rfl
@[simp] theorem State.countDraw_st : (s.countDraw).st = s.st := rfl
@[simp] theorem State.countDraw_disp : (s.countDraw).disp = s.disp := rfl
@[simp] theorem State.countDraw_keys : (s.countDraw).keys = s.keys := rfl
@[simp] theorem State.countDraw_mode : (s.countDraw).mode = s.mode := rfl
@[simp] theorem State.countDraw_config : (s.countDraw).config = s.config := rfl
@[simp] theorem State.countDraw_draws : (s.countDraw).draws = s.draws + 1 := rfl
@[simp] theorem State.countDraw_result : (s.countDraw).result = s.result := rfl
@[simp] theorem State.countDraw_firstFailure : (s.countDraw).firstFailure = s.firstFailure := rfl

/-! `advancePc` -/

@[simp] theorem State.advancePc_mem : (s.advancePc).mem = s.mem := rfl
@[simp] theorem State.advancePc_v : (s.advancePc).v = s.v := rfl
@[simp] theorem State.advancePc_i : (s.advancePc).i = s.i := rfl
@[simp] theorem State.advancePc_pc : (s.advancePc).pc = s.pc + 2 := rfl
@[simp] theorem State.advancePc_stack : (s.advancePc).stack = s.stack := rfl
@[simp] theorem State.advancePc_sp : (s.advancePc).sp = s.sp := rfl
@[simp] theorem State.advancePc_dt : (s.advancePc).dt = s.dt := rfl
@[simp] theorem State.advancePc_st : (s.advancePc).st = s.st := rfl
@[simp] theorem State.advancePc_disp : (s.advancePc).disp = s.disp := rfl
@[simp] theorem State.advancePc_keys : (s.advancePc).keys = s.keys := rfl
@[simp] theorem State.advancePc_mode : (s.advancePc).mode = s.mode := rfl
@[simp] theorem State.advancePc_config : (s.advancePc).config = s.config := rfl
@[simp] theorem State.advancePc_draws : (s.advancePc).draws = s.draws := rfl
@[simp] theorem State.advancePc_result : (s.advancePc).result = s.result := rfl
@[simp] theorem State.advancePc_firstFailure : (s.advancePc).firstFailure = s.firstFailure := rfl

/-! `report` -/

@[simp] theorem State.report_mem (r : Result) : (s.report r).mem = s.mem := rfl
@[simp] theorem State.report_v (r : Result) : (s.report r).v = s.v := rfl
@[simp] theorem State.report_i (r : Result) : (s.report r).i = s.i := rfl
@[simp] theorem State.report_pc (r : Result) : (s.report r).pc = s.pc := rfl
@[simp] theorem State.report_stack (r : Result) : (s.report r).stack = s.stack := rfl
@[simp] theorem State.report_sp (r : Result) : (s.report r).sp = s.sp := rfl
@[simp] theorem State.report_dt (r : Result) : (s.report r).dt = s.dt := rfl
@[simp] theorem State.report_st (r : Result) : (s.report r).st = s.st := rfl
@[simp] theorem State.report_disp (r : Result) : (s.report r).disp = s.disp := rfl
@[simp] theorem State.report_keys (r : Result) : (s.report r).keys = s.keys := rfl
@[simp] theorem State.report_mode (r : Result) : (s.report r).mode = s.mode := rfl
@[simp] theorem State.report_config (r : Result) : (s.report r).config = s.config := rfl
@[simp] theorem State.report_draws (r : Result) : (s.report r).draws = s.draws := rfl
@[simp] theorem State.report_result (r : Result) : (s.report r).result = r := rfl
@[simp] theorem State.report_firstFailure (r : Result) : (s.report r).firstFailure = s.firstFailure := rfl

/-! `recordFailure` -/

@[simp] theorem State.recordFailure_mem (r : Result) : (s.recordFailure r).mem = s.mem := rfl
@[simp] theorem State.recordFailure_v (r : Result) : (s.recordFailure r).v = s.v := rfl
@[simp] theorem State.recordFailure_i (r : Result) : (s.recordFailure r).i = s.i := rfl
@[simp] theorem State.recordFailure_pc (r : Result) : (s.recordFailure r).pc = s.pc := rfl
@[simp] theorem State.recordFailure_stack (r : Result) : (s.recordFailure r).stack = s.stack := rfl
@[simp] theorem State.recordFailure_sp (r : Result) : (s.recordFailure r).sp = s.sp := rfl
@[simp] theorem State.recordFailure_dt (r : Result) : (s.recordFailure r).dt = s.dt := rfl
@[simp] theorem State.recordFailure_st (r : Result) : (s.recordFailure r).st = s.st := rfl
@[simp] theorem State.recordFailure_disp (r : Result) : (s.recordFailure r).disp = s.disp := rfl
@[simp] theorem State.recordFailure_keys (r : Result) : (s.recordFailure r).keys = s.keys := rfl
@[simp] theorem State.recordFailure_mode (r : Result) : (s.recordFailure r).mode = s.mode := rfl
@[simp] theorem State.recordFailure_config (r : Result) : (s.recordFailure r).config = s.config := rfl
@[simp] theorem State.recordFailure_draws (r : Result) : (s.recordFailure r).draws = s.draws := rfl
@[simp] theorem State.recordFailure_result (r : Result) : (s.recordFailure r).result = r := rfl
@[simp] theorem State.recordFailure_firstFailure (r : Result) : (s.recordFailure r).firstFailure = s.firstFailure.or (some r) := rfl

/-! `setStack` -/

@[simp] theorem State.setStack_mem (k : Vector Word 16) : (s.setStack k).mem = s.mem := rfl
@[simp] theorem State.setStack_v (k : Vector Word 16) : (s.setStack k).v = s.v := rfl
@[simp] theorem State.setStack_i (k : Vector Word 16) : (s.setStack k).i = s.i := rfl
@[simp] theorem State.setStack_pc (k : Vector Word 16) : (s.setStack k).pc = s.pc := rfl
@[simp] theorem State.setStack_stack (k : Vector Word 16) : (s.setStack k).stack = k := rfl
@[simp] theorem State.setStack_sp (k : Vector Word 16) : (s.setStack k).sp = s.sp := rfl
@[simp] theorem State.setStack_dt (k : Vector Word 16) : (s.setStack k).dt = s.dt := rfl
@[simp] theorem State.setStack_st (k : Vector Word 16) : (s.setStack k).st = s.st := rfl
@[simp] theorem State.setStack_disp (k : Vector Word 16) : (s.setStack k).disp = s.disp := rfl
@[simp] theorem State.setStack_keys (k : Vector Word 16) : (s.setStack k).keys = s.keys := rfl
@[simp] theorem State.setStack_mode (k : Vector Word 16) : (s.setStack k).mode = s.mode := rfl
@[simp] theorem State.setStack_config (k : Vector Word 16) : (s.setStack k).config = s.config := rfl
@[simp] theorem State.setStack_draws (k : Vector Word 16) : (s.setStack k).draws = s.draws := rfl
@[simp] theorem State.setStack_result (k : Vector Word 16) : (s.setStack k).result = s.result := rfl
@[simp] theorem State.setStack_firstFailure (k : Vector Word 16) : (s.setStack k).firstFailure = s.firstFailure := rfl

/-! `setSp` -/

@[simp] theorem State.setSp_mem (n : Fin 17) : (s.setSp n).mem = s.mem := rfl
@[simp] theorem State.setSp_v (n : Fin 17) : (s.setSp n).v = s.v := rfl
@[simp] theorem State.setSp_i (n : Fin 17) : (s.setSp n).i = s.i := rfl
@[simp] theorem State.setSp_pc (n : Fin 17) : (s.setSp n).pc = s.pc := rfl
@[simp] theorem State.setSp_stack (n : Fin 17) : (s.setSp n).stack = s.stack := rfl
@[simp] theorem State.setSp_sp (n : Fin 17) : (s.setSp n).sp = n := rfl
@[simp] theorem State.setSp_dt (n : Fin 17) : (s.setSp n).dt = s.dt := rfl
@[simp] theorem State.setSp_st (n : Fin 17) : (s.setSp n).st = s.st := rfl
@[simp] theorem State.setSp_disp (n : Fin 17) : (s.setSp n).disp = s.disp := rfl
@[simp] theorem State.setSp_keys (n : Fin 17) : (s.setSp n).keys = s.keys := rfl
@[simp] theorem State.setSp_mode (n : Fin 17) : (s.setSp n).mode = s.mode := rfl
@[simp] theorem State.setSp_config (n : Fin 17) : (s.setSp n).config = s.config := rfl
@[simp] theorem State.setSp_draws (n : Fin 17) : (s.setSp n).draws = s.draws := rfl
@[simp] theorem State.setSp_result (n : Fin 17) : (s.setSp n).result = s.result := rfl
@[simp] theorem State.setSp_firstFailure (n : Fin 17) : (s.setSp n).firstFailure = s.firstFailure := rfl

/-! `skipIf` changes PC alone. -/

theorem State.skipIf_eq (taken : Bool) : s.skipIf taken = s.setPc (if taken then s.pc + 2 else s.pc) := by
  cases taken <;> rfl

@[simp] theorem State.skipIf_mem (taken : Bool) : (s.skipIf taken).mem = s.mem := by
  simp [State.skipIf_eq]
@[simp] theorem State.skipIf_v (taken : Bool) : (s.skipIf taken).v = s.v := by
  simp [State.skipIf_eq]
@[simp] theorem State.skipIf_i (taken : Bool) : (s.skipIf taken).i = s.i := by
  simp [State.skipIf_eq]
@[simp] theorem State.skipIf_stack (taken : Bool) : (s.skipIf taken).stack = s.stack := by
  simp [State.skipIf_eq]
@[simp] theorem State.skipIf_sp (taken : Bool) : (s.skipIf taken).sp = s.sp := by
  simp [State.skipIf_eq]
@[simp] theorem State.skipIf_dt (taken : Bool) : (s.skipIf taken).dt = s.dt := by
  simp [State.skipIf_eq]
@[simp] theorem State.skipIf_st (taken : Bool) : (s.skipIf taken).st = s.st := by
  simp [State.skipIf_eq]
@[simp] theorem State.skipIf_disp (taken : Bool) : (s.skipIf taken).disp = s.disp := by
  simp [State.skipIf_eq]
@[simp] theorem State.skipIf_keys (taken : Bool) : (s.skipIf taken).keys = s.keys := by
  simp [State.skipIf_eq]
@[simp] theorem State.skipIf_mode (taken : Bool) : (s.skipIf taken).mode = s.mode := by
  simp [State.skipIf_eq]
@[simp] theorem State.skipIf_config (taken : Bool) : (s.skipIf taken).config = s.config := by
  simp [State.skipIf_eq]
@[simp] theorem State.skipIf_draws (taken : Bool) : (s.skipIf taken).draws = s.draws := by
  simp [State.skipIf_eq]
@[simp] theorem State.skipIf_result (taken : Bool) : (s.skipIf taken).result = s.result := by
  simp [State.skipIf_eq]
@[simp] theorem State.skipIf_firstFailure (taken : Bool) : (s.skipIf taken).firstFailure = s.firstFailure := by
  simp [State.skipIf_eq]
@[simp] theorem State.skipIf_pc (taken : Bool) : (s.skipIf taken).pc = if taken then s.pc + 2 else s.pc := by
  simp [State.skipIf_eq]

end Sys2Proof.Machine
end

