-- ==== Sys2Proof/Laws/Memory.lean ====
section
/-! SUPPORT. Memory: a read after a write, that writes keep the canonical form, and what a run of byte stores does. -/

namespace Sys2Proof.Machine

variable (d : Nat → Byte)

/-! ### One cell -/

theorem Memory.read_insert (m : Memory) (a b : Nat) (x : Byte) :
    Memory.read d (Memory.insert m a x) b = if b = a then x else Memory.read d m b := by
  induction m with
  | nil => simp [Memory.insert, Memory.read, eq_comm]
  | cons c rest ih =>
    unfold Memory.insert
    split
    · simp [Memory.read, eq_comm (a := a)]
    · split
      · next h1 h2 => by_cases h : a = b <;> simp [Memory.read, h, eq_comm (a := b), ← h2]
      · next h1 h2 =>
        simp only [Memory.read, ih]
        by_cases h : b = a
        · simp [h, Ne.symm h2]
        · simp [h]

theorem Memory.read_filter (m : Memory) (a b : Nat) :
    Memory.read d (m.filter (fun c => c.1 != a)) b = if b = a then d a else Memory.read d m b := by
  induction m with
  | nil => by_cases h : b = a <;> simp [Memory.read, h]
  | cons c rest ih =>
    by_cases hc : c.1 = a
    · by_cases h : b = a
      · simpa [List.filter_cons, hc, h] using ih
      · simpa [List.filter_cons, hc, h, Memory.read, Ne.symm h] using ih
    · simp only [List.filter_cons, bne_iff_ne, ne_eq, hc, not_false_eq_true, ↓reduceIte, Memory.read, ih]
      by_cases h : b = a
      · simp [h, hc]
      · simp [h]

/-- A read after a write: the byte written at its own address, the old byte at every other. -/
theorem Memory.read_write (m : Memory) (a b : Nat) (x : Byte) :
    Memory.read d (Memory.write d m a x) b = if b = a then x else Memory.read d m b := by
  unfold Memory.write
  split
  · next h => simp [Memory.read_filter, h]
  · exact Memory.read_insert d m a b x

/-! ### The canonical form -/

theorem Memory.wf_nil : Memory.wf d [] := ⟨List.Pairwise.nil, by simp⟩

theorem Memory.mem_insert (m : Memory) (a : Nat) (x : Byte) (c : Host.Cell) (h : c ∈ Memory.insert m a x) :
    c = (a, x) ∨ c ∈ m := by
  induction m with
  | nil => simpa [Memory.insert] using h
  | cons e rest ih =>
    unfold Memory.insert at h
    split at h
    · simpa using h
    · split at h
      · rcases List.mem_cons.1 h with h | h
        · exact .inl h
        · exact .inr (List.mem_cons_of_mem _ h)
      · rcases List.mem_cons.1 h with h | h
        · exact .inr (h ▸ List.mem_cons_self)
        · exact (ih h).imp_right (List.mem_cons_of_mem _)

theorem Memory.insert_sorted (m : Memory) (a : Nat) (x : Byte) (h : m.Pairwise (fun c e => c.1 < e.1)) :
    (Memory.insert m a x).Pairwise (fun c e => c.1 < e.1) := by
  induction m with
  | nil => simp [Memory.insert]
  | cons e rest ih =>
    obtain ⟨h1, h2⟩ := List.pairwise_cons.1 h
    unfold Memory.insert
    split
    · next ha =>
      refine List.pairwise_cons.2 ⟨fun c hc => ?_, h⟩
      rcases List.mem_cons.1 hc with rfl | hc
      · exact ha
      · exact lt_trans ha (h1 c hc)
    · split
      · next ha => exact List.pairwise_cons.2 ⟨fun c hc => by simpa [ha] using h1 c hc, h2⟩
      · next ha hb =>
        refine List.pairwise_cons.2 ⟨fun c hc => ?_, ih h2⟩
        rcases Memory.mem_insert rest a x c hc with rfl | hc
        · show e.1 < a
          omega
        · exact h1 c hc

/-- A write below 4096 keeps the canonical form. -/
theorem Memory.wf_write (m : Memory) (a : Nat) (x : Byte) (ha : a < 4096) (h : Memory.wf d m) :
    Memory.wf d (Memory.write d m a x) := by
  unfold Memory.write
  split
  · exact ⟨h.1.filter _, fun c hc => h.2 c (List.mem_filter.1 hc).1⟩
  · next hx =>
    refine ⟨Memory.insert_sorted m a x h.1, fun c hc => ?_⟩
    rcases Memory.mem_insert m a x c hc with rfl | hc
    · exact ⟨ha, hx⟩
    · exact h.2 c hc

/-- Memories in canonical form that read alike are equal data. -/
theorem Memory.ext_of_wf {m n : Memory} (hm : Memory.wf d m) (hn : Memory.wf d n)
    (h : ∀ a, Memory.read d m a = Memory.read d n a) : m = n := by
  have read_mem : ∀ {m : Memory}, m.Pairwise (fun c e => c.1 < e.1) → ∀ c ∈ m, Memory.read d m c.1 = c.2 := by
    intro m hp
    induction m with
    | nil => simp
    | cons e rest ih =>
      obtain ⟨h1, h2⟩ := List.pairwise_cons.1 hp
      intro c hc
      rcases List.mem_cons.1 hc with rfl | hc
      · simp [Memory.read]
      · have : e.1 ≠ c.1 := ne_of_lt (h1 c hc)
        simpa [Memory.read, this] using ih h2 c hc
  have mem_of_read : ∀ {m : Memory} {a : Nat}, Memory.read d m a ≠ d a → ∃ c ∈ m, c.1 = a := by
    intro m a
    induction m with
    | nil => simp [Memory.read]
    | cons e rest ih =>
      intro hr
      by_cases he : e.1 = a
      · exact ⟨e, List.mem_cons_self, he⟩
      · obtain ⟨c, hc, hca⟩ := ih (by simpa [Memory.read, he] using hr)
        exact ⟨c, List.mem_cons_of_mem _ hc, hca⟩
  have sub : ∀ {m n : Memory}, Memory.wf d m → Memory.wf d n →
      (∀ a, Memory.read d m a = Memory.read d n a) → ∀ c ∈ m, c ∈ n := by
    intro m n hm hn h c hc
    have h1 := read_mem hm.1 c hc
    obtain ⟨e, he, hea⟩ := mem_of_read (m := n) (a := c.1) (by rw [← h, h1]; exact (hm.2 c hc).2)
    have h2 := read_mem hn.1 e he
    have : e = c := Prod.ext hea (by rw [← h2, hea, ← h, h1])
    exact this ▸ he
  have irr : ∀ c e, c ∈ m → e ∈ n → c.1 < e.1 → e.1 < c.1 → c = e := fun _ _ _ _ h1 h2 => absurd h1 (lt_asymm h2)
  refine List.Perm.eq_of_pairwise irr hm.1 hn.1 ((List.perm_ext_iff_of_nodup ?_ ?_).2 fun c =>
    ⟨sub hm hn h c, sub hn hm (fun a => (h a).symm) c⟩)
  · exact hm.1.imp fun hlt he => absurd hlt (by simp [he])
  · exact hn.1.imp fun hlt he => absurd hlt (by simp [he])

/-! ### The memory of a state -/

variable (s : State)

theorem physAddr_lt (a : Nat) : physAddr a < 4096 := Nat.mod_lt _ (by decide)

theorem physAddr_of_lt {a : Nat} (h : a < 4096) : physAddr a = a := Nat.mod_eq_of_lt h

@[simp] theorem State.byteAt_memWrite (a b : Nat) (x : Byte) :
    (s.memWrite a x).byteAt b = if b = physAddr a then x else s.byteAt b := by
  simp [State.byteAt, Memory.read_write]

theorem State.memWf_memWrite (a : Nat) (x : Byte) (h : s.memWf) : (s.memWrite a x).memWf :=
  Memory.wf_write _ _ _ _ (physAddr_lt a) h

theorem State.reset_memWf : State.reset.memWf := Memory.wf_nil _

/-- A run of byte stores changes `mem` alone. -/
theorem State.writeBytes_eq (base : Nat) (bytes : List Byte) :
    s.writeBytes base bytes = { s with mem := (s.writeBytes base bytes).mem } := by
  induction bytes generalizing s base with
  | nil => rfl
  | cons b rest ih => exact (ih (s.memWrite base b) (base + 1)).trans rfl

theorem State.memWf_writeBytes (base : Nat) (bytes : List Byte) (h : s.memWf) : (s.writeBytes base bytes).memWf := by
  induction bytes generalizing s base with
  | nil => exact h
  | cons b rest ih => exact ih _ _ (s.memWf_memWrite base b h)

/-- Outside the bytes stored, memory reads as before. -/
theorem State.byteAt_writeBytes_of_not_touched (base : Nat) (bytes : List Byte) (a : Nat)
    (h : ∀ k < bytes.length, a ≠ physAddr (base + k)) : (s.writeBytes base bytes).byteAt a = s.byteAt a := by
  induction bytes generalizing s base with
  | nil => rfl
  | cons b rest ih =>
    have h0 : a ≠ physAddr base := h 0 (by simp)
    show ((s.memWrite base b).writeBytes (base + 1) rest).byteAt a = _
    rw [ih _ _ fun k hk => by simpa [Nat.add_assoc, Nat.add_comm 1] using h (k + 1) (by simpa using hk)]
    simp [h0]

/-- The `k`-th byte stored reads back, for a run of at most 4096 bytes. -/
theorem State.byteAt_writeBytes (base : Nat) (bytes : List Byte) (hlen : bytes.length ≤ 4096) (k : Nat) (hk : k < bytes.length) :
    (s.writeBytes base bytes).byteAt (physAddr (base + k)) = bytes[k] := by
  induction bytes generalizing s base k with
  | nil => simp at hk
  | cons b rest ih =>
    simp only [List.length_cons] at hlen hk
    show ((s.memWrite base b).writeBytes (base + 1) rest).byteAt _ = _
    cases k with
    | zero =>
      rw [State.byteAt_writeBytes_of_not_touched]
      · simp
      · intro j hj
        simp only [physAddr, Nat.add_zero]
        omega
    | succ k =>
      have := ih (s.memWrite base b) (base + 1) (by omega) k (by omega)
      simpa [Nat.add_assoc, Nat.add_comm 1] using this

end Sys2Proof.Machine
end

