-- ==== Sys2Proof/Laws/Ops.lean ====
section
/-! SUPPORT. What each shared operation can do, said once: registers, flags, the stack, the range check, the outcomes, the fetch. -/

namespace Sys2Proof.Machine

variable (s t : State)

/-! ### Registers and operands -/

theorem State.setV_get (x : RegIx) (b : Byte) (k : Nat) (hk : k < 16) :
    (s.setV x b).v[k] = if k = x.val then b else s.v[k] := by
  simp [Vector.getElem_set, eq_comm]

@[simp] theorem State.reg_eq (x : RegIx) : s.reg x = s.v[x] := rfl

@[simp] theorem State.iBase_eq : s.iBase = s.i.toNat := rfl

@[simp] theorem zext16_toNat (b : Byte) : (zext16 b).toNat = b.toNat := by
  simp only [zext16, BitVec.toNat_setWidth]; omega

@[simp] theorem zextAddr_toNat (nnn : Addr) : (zextAddr nnn).toNat = nnn.toNat := by
  simp only [zextAddr, BitVec.toNat_setWidth]; omega

theorem State.keyState_of_lt {k : Byte} (h : k.toNat < 16) : s.keyState k = some s.keys[k.toNat] := dif_pos h

theorem State.keyState_of_ge {k : Byte} (h : 16 ≤ k.toNat) : s.keyState k = none := dif_neg (by omega)

theorem State.keyState_some {k : Byte} {down : Bool} (h : s.keyState k = some down) :
    ∃ hk : k.toNat < 16, s.keys[k.toNat] = down := by
  unfold State.keyState at h
  split at h
  · next hk => exact ⟨hk, by simpa using h⟩
  · simp at h

theorem State.keyState_none {k : Byte} (h : s.keyState k = none) : 16 ≤ k.toNat := by
  unfold State.keyState at h
  split at h
  · simp at h
  · omega

@[simp] theorem State.regsUpTo_length (x : RegIx) : (s.regsUpTo x).length = x.val + 1 := by
  simp [State.regsUpTo]

theorem State.regsUpTo_get (x : RegIx) (k : Nat) (h : k < (s.regsUpTo x).length) :
    (s.regsUpTo x)[k] = s.v[k]'(by have := s.regsUpTo_length x; omega) := by
  simp [State.regsUpTo]

@[simp] theorem State.readBytes_length (base len : Nat) : (s.readBytes base len).length = len := by
  simp [State.readBytes]

@[simp] theorem State.readBytes_get (base len k : Nat) (h : k < (s.readBytes base len).length) :
    (s.readBytes base len)[k] = s.memRead (base + k) := by
  simp [State.readBytes]

/-- A load of registers: the registers of the list get its bytes, the others keep theirs. -/
theorem loadRegs_get (v : Vector Byte 16) (first : Nat) (bytes : List Byte) (j : Nat) (hj : j < 16) :
    (loadRegs v first bytes)[j] = if h : first ≤ j ∧ j - first < bytes.length then bytes[j - first] else v[j] := by
  induction bytes generalizing v first with
  | nil => simp [loadRegs]
  | cons b rest ih =>
    rw [loadRegs, ih]
    by_cases h : first = j
    · subst h
      rw [dif_neg (by omega), dif_pos (by simp)]
      simp
    · by_cases h1 : first + 1 ≤ j ∧ j - (first + 1) < rest.length
      · rw [dif_pos h1, dif_pos (by simp; omega)]
        have : j - first = j - (first + 1) + 1 := by omega
        simp [this]
      · rw [dif_neg h1, dif_neg (by simp; omega)]
        simp [h]

/-! ### Results and flags of the ALU, as arithmetic on naturals -/

@[simp] theorem sumByte_toNat (a b : Byte) : (sumByte a b).toNat = (a.toNat + b.toNat) % 256 := by
  simp [sumByte]

@[simp] theorem diffByte_toNat (a b : Byte) : ((diffByte a b).toNat : Int) = ((a.toNat : Int) - b.toNat) % 256 := by
  simp only [diffByte, BitVec.toNat_ofInt]; omega

@[simp] theorem shiftRightByte_toNat (a : Byte) : (shiftRightByte a).toNat = a.toNat / 2 := by
  simp [shiftRightByte, Nat.shiftRight_eq_div_pow]

@[simp] theorem shiftLeftByte_toNat (a : Byte) : (shiftLeftByte a).toNat = a.toNat * 2 % 256 := by
  simp [shiftLeftByte, Nat.shiftLeft_eq]

theorem carryFlag_iff (a b : Byte) : carryFlag a b = true ↔ 255 < a.toNat + b.toNat := by
  simp only [carryFlag, decide_eq_true_eq]

theorem notBorrowFlag_iff (a b : Byte) : notBorrowFlag a b = true ↔ b.toNat ≤ a.toNat := by
  simp only [notBorrowFlag, decide_eq_true_eq]

theorem bit0Flag_eq (a : Byte) : bit0Flag a = decide (a.toNat % 2 = 1) := by
  simp [bit0Flag, BitVec.getLsbD, Nat.testBit_zero]

theorem bit7Flag_eq (a : Byte) : bit7Flag a = decide (128 ≤ a.toNat) := by
  have := a.isLt
  rw [bit7Flag, BitVec.getLsbD, Nat.testBit_eq_decide_div_mod_eq]
  simp only [decide_eq_decide]
  omega

theorem flagByte_toNat (f : Bool) : (flagByte f).toNat = if f then 1 else 0 := by cases f <;> rfl

/-- The result and then the flag: VF holds the flag, whatever `x` is (42_alu.md R152). -/
theorem State.setResultThenFlag_get (x : RegIx) (b : Byte) (f : Bool) (k : Nat) (hk : k < 16) :
    (s.setResultThenFlag x b f).v[k] = if k = 15 then flagByte f else if k = x.val then b else s.v[k] := by
  rw [State.setResultThenFlag, State.setV_get, State.setV_get]
  rfl

/-- The two writes change `v` alone. -/
theorem State.setResultThenFlag_eq (x : RegIx) (b : Byte) (f : Bool) :
    s.setResultThenFlag x b f = { s with v := (s.v.set x b).set vf (flagByte f) } := rfl

/-! ### The return stack -/

theorem State.push_of_lt (w : Word) (h : s.sp.val < 16) :
    s.push w = some ((s.setStack (s.stack.set s.sp.val w)).setSp ⟨s.sp.val + 1, by omega⟩) := dif_pos h

theorem State.push_eq_none (w : Word) : s.push w = none ↔ s.sp = 16 := by
  have : s.sp = 16 ↔ s.sp.val = 16 := by rw [Fin.ext_iff]; rfl
  rw [this, State.push]
  split
  · simp; omega
  · simp; omega

theorem State.pop_of_pos (h : 0 < s.sp.val) :
    s.pop = some (s.stack[s.sp.val - 1], s.setSp ⟨s.sp.val - 1, by omega⟩) := dif_pos h

theorem State.pop_eq_none : s.pop = none ↔ s.sp = 0 := by
  have : s.sp = 0 ↔ s.sp.val = 0 := by rw [Fin.ext_iff]; rfl
  rw [this, State.pop]
  split
  · simp; omega
  · simp; omega

/-! ### Outcomes -/

@[simp] theorem done_eq_next : done s = .next t ↔ t = s.report .ok := by
  simp [done, eq_comm]

@[simp] theorem raise_eq_next (r : Result) : raise r s = .next t ↔ t = s.recordFailure r := by
  simp [raise, eq_comm]

@[simp] theorem unknownOpcode_eq_next (op : Word) :
    unknownOpcode op s = .next t ↔ t = s.recordFailure (.unknownOpcode op) := by
  simp [unknownOpcode, eq_comm]

/-! ### The range check (20_memory.md R55) -/

theorem State.firstOutOfRange_eq_none (base len : Nat) :
    s.firstOutOfRange base len = none ↔ (len = 0 ∨ Safety.InRange s base len) := by
  unfold State.firstOutOfRange Safety.InRange
  cases s.config.addrPolicy with
  | fault => simp; omega
  | wrap12 => simp

theorem State.firstOutOfRange_eq_some (base len a : Nat) :
    s.firstOutOfRange base len = some a ↔
      s.config.addrPolicy = .fault ∧ 0 < len ∧ 0x1000 < base + len ∧ a = max base 0x1000 := by
  unfold State.firstOutOfRange
  cases s.config.addrPolicy <;> simp [eq_comm, and_assoc]

/-- A checked instruction either raises AddressOutOfRange, with the first address out of range, or goes on. -/
theorem withRange_cases (base len : Nat) (go : Host.Outcome State Fault Refusal) :
    (withRange s base len go = go ∧ (len = 0 ∨ Safety.InRange s base len)) ∨
    (withRange s base len go = raise (.addressOutOfRange (max base 0x1000)) s ∧
      s.config.addrPolicy = .fault ∧ 0 < len ∧ 0x1000 < base + len) := by
  unfold withRange
  cases h : s.firstOutOfRange base len with
  | none => exact .inl ⟨rfl, (s.firstOutOfRange_eq_none _ _).1 h⟩
  | some a =>
    obtain ⟨h1, h2, h3, rfl⟩ := (s.firstOutOfRange_eq_some _ _ _).1 h
    exact .inr ⟨rfl, h1, h2, h3⟩

theorem withRange_of_inRange {base len : Nat} (go : Host.Outcome State Fault Refusal)
    (h : len = 0 ∨ Safety.InRange s base len) : withRange s base len go = go := by
  simp [withRange, (s.firstOutOfRange_eq_none base len).2 h]

theorem withRange_of_outOfRange {base len : Nat} (go : Host.Outcome State Fault Refusal)
    (hp : s.config.addrPolicy = .fault) (hl : 0 < len) (h : 0x1000 < base + len) :
    withRange s base len go = raise (.addressOutOfRange (max base 0x1000)) s := by
  simp [withRange, (s.firstOutOfRange_eq_some base len _).2 ⟨hp, hl, h, rfl⟩]

/-! ### Fetch (40_step.md R101, R102) -/

theorem State.fetch_of_inRange (h : Safety.InRange s s.pc.toNat 2) :
    s.fetch = .ok (wordOfBytes (s.memRead s.pc.toNat) (s.memRead (s.pc.toNat + 1))) := by
  simp [State.fetch, (s.firstOutOfRange_eq_none s.pc.toNat 2).2 (.inr h)]

theorem State.fetch_of_outOfRange (hp : s.config.addrPolicy = .fault) (h : 0xFFF ≤ s.pc.toNat) :
    s.fetch = .error (max s.pc.toNat 0x1000) := by
  simp [State.fetch, (s.firstOutOfRange_eq_some s.pc.toNat 2 _).2 ⟨hp, by omega, by omega, rfl⟩]

theorem State.fetch_ok {op : Word} (h : s.fetch = .ok op) : Safety.InRange s s.pc.toNat 2 := by
  unfold State.fetch at h
  split at h
  · simp at h
  · next hn => exact ((s.firstOutOfRange_eq_none _ _).1 hn).resolve_left (by omega)

/-! ### A step -/

/-- Everything a step can do (40_step.md R100): the key-wait poll, the fetch fault, an unknown word, or an instruction. -/
theorem step_cases :
    (∃ x, s.mode = .awaitingKey x ∧ step s = keywaitPoll x s) ∨
    (s.mode = .running ∧ ∃ a, s.fetch = .error a ∧ step s = .fault (.addressOutOfRange a)) ∨
    (s.mode = .running ∧ ∃ op e, s.fetch = .ok op ∧ decode s.config op = .error e ∧
      step s = unknownOpcode op s.advancePc) ∨
    (s.mode = .running ∧ ∃ op i, s.fetch = .ok op ∧ decode s.config op = .ok i ∧ step s = exec i s.advancePc) := by
  unfold step
  cases hm : s.mode with
  | awaitingKey x => exact .inl ⟨x, rfl, rfl⟩
  | running =>
    cases hf : s.fetch with
    | error a => exact .inr (.inl ⟨rfl, a, rfl, rfl⟩)
    | ok op =>
      cases hd : decode s.config op with
      | error e => exact .inr (.inr (.inl ⟨rfl, op, e, rfl, hd, by simp [hd]⟩))
      | ok i => exact .inr (.inr (.inr ⟨rfl, op, i, rfl, hd, by simp [hd]⟩))

end Sys2Proof.Machine
end

