-- ==== Sys2Proof/Laws/Frame.lean ====
section
/-! SUPPORT. Frames: they compose, they weaken, and each named update has its own. -/

namespace Sys2Proof.Safety

open Sys2Proof.Machine

variable {s t u : State} {A B : List Part}

theorem Frame.refl (s : State) : Frame [] s s := by constructor <;> intros <;> rfl

/-- A frame with more parts allowed to change. -/
theorem Frame.mono (h : Frame A s t) (hAB : A ⊆ B) : Frame B s t where
  mem hn := h.mem fun hm => hn (hAB hm)
  v x hn := h.v x fun hm => hn (hAB hm)
  i hn := h.i fun hm => hn (hAB hm)
  pc hn := h.pc fun hm => hn (hAB hm)
  stack hn := h.stack fun hm => hn (hAB hm)
  sp hn := h.sp fun hm => hn (hAB hm)
  dt hn := h.dt fun hm => hn (hAB hm)
  st hn := h.st fun hm => hn (hAB hm)
  disp hn := h.disp fun hm => hn (hAB hm)
  keys hn := h.keys fun hm => hn (hAB hm)
  mode hn := h.mode fun hm => hn (hAB hm)
  draws hn := h.draws fun hm => hn (hAB hm)
  failure hn := h.failure fun hm => hn (hAB hm)
  config := h.config

/-- One change after another: the parts of both. -/
theorem Frame.trans (h : Frame A s t) (k : Frame B t u) : Frame (A ++ B) s u where
  mem hn a := by rw [k.mem (by simp_all), h.mem (by simp_all)]
  v x hn := by rw [k.v x (by simp_all), h.v x (by simp_all)]
  i hn := by rw [k.i (by simp_all), h.i (by simp_all)]
  pc hn := by rw [k.pc (by simp_all), h.pc (by simp_all)]
  stack hn := by rw [k.stack (by simp_all), h.stack (by simp_all)]
  sp hn := by rw [k.sp (by simp_all), h.sp (by simp_all)]
  dt hn := by rw [k.dt (by simp_all), h.dt (by simp_all)]
  st hn := by rw [k.st (by simp_all), h.st (by simp_all)]
  disp hn := by rw [k.disp (by simp_all), h.disp (by simp_all)]
  keys hn := by rw [k.keys (by simp_all), h.keys (by simp_all)]
  mode hn := by rw [k.mode (by simp_all), h.mode (by simp_all)]
  draws hn := by rw [k.draws (by simp_all), h.draws (by simp_all)]
  failure hn := by rw [k.failure (by simp_all), h.failure (by simp_all)]
  config := by rw [k.config, h.config]

/-! ### The named updates -/

variable (s)

theorem frame_setV (x : RegIx) (b : Byte) : Frame [.v x] s (s.setV x b) := by
  constructor <;> intros <;> try rfl
  next y hy => exact (State.setV_get s x b y.val y.isLt).trans (if_neg (by simpa [Fin.ext_iff] using hy))

theorem frame_setI (w : Word) : Frame [.i] s (s.setI w) := by
  constructor <;> intros <;> first | rfl | simp_all

theorem frame_setPc (w : Word) : Frame [.pc] s (s.setPc w) := by
  constructor <;> intros <;> first | rfl | simp_all

theorem frame_advancePc : Frame [.pc] s s.advancePc := frame_setPc s _

theorem frame_skipIf (taken : Bool) : Frame [.pc] s (s.skipIf taken) := by
  rw [State.skipIf_eq]; exact frame_setPc s _

theorem frame_setDt (b : Byte) : Frame [.dt] s (s.setDt b) := by
  constructor <;> intros <;> first | rfl | simp_all

theorem frame_setSt (b : Byte) : Frame [.st] s (s.setSt b) := by
  constructor <;> intros <;> first | rfl | simp_all

theorem frame_setDisp (d : Display) : Frame [.disp] s (s.setDisp d) := by
  constructor <;> intros <;> first | rfl | simp_all

theorem frame_setMode (m : Mode) : Frame [.mode] s (s.setMode m) := by
  constructor <;> intros <;> first | rfl | simp_all

theorem frame_setKeys (k : Vector Bool 16) : Frame [.keys] s (s.setKeys k) := by
  constructor <;> intros <;> first | rfl | simp_all

theorem frame_setStack (k : Vector Word 16) : Frame [.stack] s (s.setStack k) := by
  constructor <;> intros <;> first | rfl | simp_all

theorem frame_setSp (n : Fin 17) : Frame [.sp] s (s.setSp n) := by
  constructor <;> intros <;> first | rfl | simp_all

theorem frame_countDraw : Frame [.draws] s s.countDraw := by
  constructor <;> intros <;> first | rfl | simp_all

/-- What a step reports is no part of a frame. -/
theorem frame_report (r : Result) : Frame [] s (s.report r) := by
  constructor <;> intros <;> rfl

theorem frame_recordFailure (r : Result) : Frame [.failure] s (s.recordFailure r) := by
  constructor <;> intros <;> first | rfl | simp_all

theorem frame_memWrite (a : Nat) (b : Byte) : Frame [.mem] s (s.memWrite a b) := by
  constructor <;> intros <;> first | rfl | simp_all

theorem frame_writeBytes (base : Nat) (bytes : List Byte) : Frame [.mem] s (s.writeBytes base bytes) := by
  rw [State.writeBytes_eq]
  constructor <;> intros <;> first | rfl | simp_all

theorem frame_setResultThenFlag (x : RegIx) (b : Byte) (f : Bool) : Frame [.v x, .v vf] s (s.setResultThenFlag x b f) :=
  (frame_setV s x b).trans (frame_setV _ vf _)

/-- The step that ends an instruction keeps its frame. -/
theorem Frame.done {s t u : State} {A : List Part} (h : Frame A s t) (hd : Machine.done t = .next u) : Frame A s u := by
  rw [done_eq_next] at hd
  subst hd
  simpa using h.trans (frame_report t .ok)

end Sys2Proof.Safety
end

