-- ==== Sys2Proof/Laws/Exec.lean ====
section
/-! SUPPORT. What the key-wait poll and an executed instruction can do, said once over all instructions. -/

namespace Sys2Proof.Machine

open Sys2Proof.Safety

variable (s : State)

/-- The poll finds a key that is down, with no lower one down, or there is none (45_timers_keypad.md R216). -/
theorem leastKeyDown_cases (keys : Vector Bool 16) :
    (∃ k : RegIx, leastKeyDown keys = some k.val ∧ keys[k] = true ∧ ∀ j : RegIx, j < k → keys[j] = false) ∨
    (leastKeyDown keys = none ∧ ∀ k : RegIx, keys[k] = false) := by
  cases h : leastKeyDown keys with
  | none =>
    refine .inr ⟨rfl, fun k => ?_⟩
    have := List.find?_eq_none.1 h k.val (List.mem_range.2 k.isLt)
    simpa [k.isLt] using this
  | some n =>
    obtain ⟨hn, hb⟩ := List.find?_range_eq_some.1 h
    have hlt : n < 16 := List.mem_range.1 hb.1
    refine .inl ⟨⟨n, hlt⟩, rfl, by simpa [hlt] using hn, fun j hj => ?_⟩
    simpa [j.isLt] using hb.2 j.val hj

/-- A step in the key wait reports `Ok`, with the key in `Vx` and the mode `Running`, or `Waiting`. -/
theorem keywaitPoll_cases (x : RegIx) :
    (∃ k : RegIx, s.keys[k] = true ∧ (∀ j : RegIx, j < k → s.keys[j] = false) ∧
      keywaitPoll x s = done ((s.setV x (BitVec.ofNat 8 k.val)).setMode .running)) ∨
    ((∀ k : RegIx, s.keys[k] = false) ∧ keywaitPoll x s = .next (s.report .waiting)) := by
  unfold keywaitPoll
  rcases leastKeyDown_cases s.keys with ⟨k, h, hk, hj⟩ | ⟨h, hk⟩ <;> rw [h]
  · exact .inl ⟨k, hk, hj, rfl⟩
  · exact .inr ⟨hk, rfl⟩

/-- Why an instruction raises a fault, and which (60_exceptions.md R231-R234). -/
def RaisesFor (i : Instr) (s : State) (r : Result) : Prop :=
  (r = .stackOverflow ∧ (∃ nnn, i = .callNnn nnn) ∧ s.sp = 16) ∨
  (r = .stackUnderflow ∧ i = .ret ∧ s.sp = 0) ∨
  (r = .addressOutOfRange (max s.i.toNat 0x1000) ∧ s.config.addrPolicy = .fault ∧ 0 < accessLength i ∧
    0x1000 < s.i.toNat + accessLength i) ∨
  ∃ x, r = .keyIndexOutOfRange s.v[x] ∧ (i = .skpVx x ∨ i = .sknpVx x) ∧ 15 < s.v[x].toNat

/-- A checked access either goes on or raises the address fault of its instruction. -/
theorem withRange_raisesFor (i : Instr) (u : State) :
    (∃ w, withRange s s.i.toNat (accessLength i) (done u) = done w) ∨
    ∃ r, withRange s s.i.toNat (accessLength i) (done u) = raise r s ∧ RaisesFor i s r := by
  rcases withRange_cases s s.i.toNat (accessLength i) (done u) with ⟨hw, -⟩ | ⟨hw, h⟩
  · exact .inl ⟨u, hw⟩
  · exact .inr ⟨_, hw, .inr (.inr (.inl ⟨rfl, h⟩))⟩

/-- An executed instruction ends in a next state: it is done, reporting `Ok`, or it raises a fault for one of the stated reasons. -/
theorem exec_cases (i : Instr) : (∃ u, exec i s = done u) ∨ ∃ r, exec i s = raise r s ∧ RaisesFor i s r := by
  cases i
  case ret =>
    simp only [exec, execRet]
    split
    · next h => exact .inr ⟨_, rfl, .inr (.inl ⟨rfl, rfl, s.pop_eq_none.1 h⟩)⟩
    · exact .inl ⟨_, rfl⟩
  case callNnn nnn =>
    simp only [exec, execCallNnn]
    split
    · next h => exact .inr ⟨_, rfl, .inl ⟨rfl, ⟨nnn, rfl⟩, (s.push_eq_none _).1 h⟩⟩
    · exact .inl ⟨_, rfl⟩
  case skpVx x =>
    simp only [exec, execSkpVx]
    split
    · next h => exact .inr ⟨_, rfl, .inr (.inr (.inr ⟨x, rfl, .inl rfl, s.keyState_none h⟩))⟩
    · exact .inl ⟨_, rfl⟩
  case sknpVx x =>
    simp only [exec, execSknpVx]
    split
    · next h => exact .inr ⟨_, rfl, .inr (.inr (.inr ⟨x, rfl, .inr rfl, s.keyState_none h⟩))⟩
    · exact .inl ⟨_, rfl⟩
  case drwVxVyN x y n => exact withRange_raisesFor s (.drwVxVyN x y n) _
  case ldBVx x => exact withRange_raisesFor s (.ldBVx x) _
  case ldIndVx x => exact withRange_raisesFor s (.ldIndVx x) _
  case ldVxInd x => exact withRange_raisesFor s (.ldVxInd x) _
  all_goals exact .inl ⟨_, rfl⟩

end Sys2Proof.Machine
end

