-- ==== Sys2Proof/Laws/PerInstr.lean ====
section
/-! SUPPORT. The per-instruction family TableRow: the word an instruction encodes to is a word of the opcode-table row that has the
instruction's mnemonic (30_encoding.md R74). With opcodeTable_disjoint, of no other row (R75). -/

namespace Sys2Proof.Laws.TableRow

/-- A row with the mnemonic of `i` matches the word of `i`. -/
def Statement (i : Instr) : Prop := ∃ r ∈ opcodeTable, r.mnemonic = mnemonicOf i ∧ rowMatches r (encode i) = true

/-- The statement from the row itself. -/
theorem statement_of (i : Instr) (r : TableRow) (hr : r ∈ opcodeTable) (hn : r.mnemonic = mnemonicOf i)
    (hm : encode i &&& r.mask = r.pattern) : Statement i :=
  ⟨r, hr, hn, by simp [rowMatches, hm]⟩

theorem cls : Statement .cls :=
  statement_of _ ⟨"CLS", 0x00E0, 0xFFFF⟩ (by decide) rfl rfl

theorem ret : Statement .ret :=
  statement_of _ ⟨"RET", 0x00EE, 0xFFFF⟩ (by decide) rfl rfl

theorem jpNnn (nnn : Addr) : Statement (.jpNnn nnn) :=
  statement_of _ ⟨"JP_nnn", 0x1000, 0xF000⟩ (by decide) rfl ((formatFA_and ..).trans rfl)

theorem callNnn (nnn : Addr) : Statement (.callNnn nnn) :=
  statement_of _ ⟨"CALL_nnn", 0x2000, 0xF000⟩ (by decide) rfl ((formatFA_and ..).trans rfl)

theorem seVxKk (x : RegIx) (kk : Byte) : Statement (.seVxKk x kk) :=
  statement_of _ ⟨"SE_Vx__kk", 0x3000, 0xF000⟩ (by decide) rfl ((formatFK_and_family ..).trans rfl)

theorem sneVxKk (x : RegIx) (kk : Byte) : Statement (.sneVxKk x kk) :=
  statement_of _ ⟨"SNE_Vx__kk", 0x4000, 0xF000⟩ (by decide) rfl ((formatFK_and_family ..).trans rfl)

theorem seVxVy (x y : RegIx) : Statement (.seVxVy x y) :=
  statement_of _ ⟨"SE_Vx__Vy", 0x5000, 0xF00F⟩ (by decide) rfl ((formatFR_and ..).trans rfl)

theorem ldVxKk (x : RegIx) (kk : Byte) : Statement (.ldVxKk x kk) :=
  statement_of _ ⟨"LD_Vx__kk", 0x6000, 0xF000⟩ (by decide) rfl ((formatFK_and_family ..).trans rfl)

theorem addVxKk (x : RegIx) (kk : Byte) : Statement (.addVxKk x kk) :=
  statement_of _ ⟨"ADD_Vx__kk", 0x7000, 0xF000⟩ (by decide) rfl ((formatFK_and_family ..).trans rfl)

theorem ldVxVy (x y : RegIx) : Statement (.ldVxVy x y) :=
  statement_of _ ⟨"LD_Vx__Vy", 0x8000, 0xF00F⟩ (by decide) rfl ((formatFR_and ..).trans rfl)

theorem orVxVy (x y : RegIx) : Statement (.orVxVy x y) :=
  statement_of _ ⟨"OR_Vx__Vy", 0x8001, 0xF00F⟩ (by decide) rfl ((formatFR_and ..).trans rfl)

theorem andVxVy (x y : RegIx) : Statement (.andVxVy x y) :=
  statement_of _ ⟨"AND_Vx__Vy", 0x8002, 0xF00F⟩ (by decide) rfl ((formatFR_and ..).trans rfl)

theorem xorVxVy (x y : RegIx) : Statement (.xorVxVy x y) :=
  statement_of _ ⟨"XOR_Vx__Vy", 0x8003, 0xF00F⟩ (by decide) rfl ((formatFR_and ..).trans rfl)

theorem addVxVy (x y : RegIx) : Statement (.addVxVy x y) :=
  statement_of _ ⟨"ADD_Vx__Vy", 0x8004, 0xF00F⟩ (by decide) rfl ((formatFR_and ..).trans rfl)

theorem subVxVy (x y : RegIx) : Statement (.subVxVy x y) :=
  statement_of _ ⟨"SUB_Vx__Vy", 0x8005, 0xF00F⟩ (by decide) rfl ((formatFR_and ..).trans rfl)

theorem shrVx (x y : RegIx) : Statement (.shrVx x y) :=
  statement_of _ ⟨"SHR_Vx", 0x8006, 0xF00F⟩ (by decide) rfl ((formatFR_and ..).trans rfl)

theorem subnVxVy (x y : RegIx) : Statement (.subnVxVy x y) :=
  statement_of _ ⟨"SUBN_Vx__Vy", 0x8007, 0xF00F⟩ (by decide) rfl ((formatFR_and ..).trans rfl)

theorem shlVx (x y : RegIx) : Statement (.shlVx x y) :=
  statement_of _ ⟨"SHL_Vx", 0x800E, 0xF00F⟩ (by decide) rfl ((formatFR_and ..).trans rfl)

theorem sneVxVy (x y : RegIx) : Statement (.sneVxVy x y) :=
  statement_of _ ⟨"SNE_Vx__Vy", 0x9000, 0xF00F⟩ (by decide) rfl ((formatFR_and ..).trans rfl)

theorem ldINnn (nnn : Addr) : Statement (.ldINnn nnn) :=
  statement_of _ ⟨"LD_I__nnn", 0xA000, 0xF000⟩ (by decide) rfl ((formatFA_and ..).trans rfl)

theorem jpV0Nnn (nnn : Addr) : Statement (.jpV0Nnn nnn) :=
  statement_of _ ⟨"JP_V0__nnn", 0xB000, 0xF000⟩ (by decide) rfl ((formatFA_and ..).trans rfl)

theorem rndVxKk (x : RegIx) (kk : Byte) : Statement (.rndVxKk x kk) :=
  statement_of _ ⟨"RND_Vx__kk", 0xC000, 0xF000⟩ (by decide) rfl ((formatFK_and_family ..).trans rfl)

theorem drwVxVyN (x y : RegIx) (n : Rows) : Statement (.drwVxVyN x y n) :=
  statement_of _ ⟨"DRW_Vx__Vy__n", 0xD000, 0xF000⟩ (by decide) rfl ((formatFR_and_family ..).trans rfl)

theorem skpVx (x : RegIx) : Statement (.skpVx x) :=
  statement_of _ ⟨"SKP_Vx", 0xE09E, 0xF0FF⟩ (by decide) rfl ((formatFK_and ..).trans rfl)

theorem sknpVx (x : RegIx) : Statement (.sknpVx x) :=
  statement_of _ ⟨"SKNP_Vx", 0xE0A1, 0xF0FF⟩ (by decide) rfl ((formatFK_and ..).trans rfl)

theorem ldVxDt (x : RegIx) : Statement (.ldVxDt x) :=
  statement_of _ ⟨"LD_Vx__DT", 0xF007, 0xF0FF⟩ (by decide) rfl ((formatFK_and ..).trans rfl)

theorem ldVxK (x : RegIx) : Statement (.ldVxK x) :=
  statement_of _ ⟨"LD_Vx__K", 0xF00A, 0xF0FF⟩ (by decide) rfl ((formatFK_and ..).trans rfl)

theorem ldDtVx (x : RegIx) : Statement (.ldDtVx x) :=
  statement_of _ ⟨"LD_DT__Vx", 0xF015, 0xF0FF⟩ (by decide) rfl ((formatFK_and ..).trans rfl)

theorem ldStVx (x : RegIx) : Statement (.ldStVx x) :=
  statement_of _ ⟨"LD_ST__Vx", 0xF018, 0xF0FF⟩ (by decide) rfl ((formatFK_and ..).trans rfl)

theorem addIVx (x : RegIx) : Statement (.addIVx x) :=
  statement_of _ ⟨"ADD_I__Vx", 0xF01E, 0xF0FF⟩ (by decide) rfl ((formatFK_and ..).trans rfl)

theorem ldFVx (x : RegIx) : Statement (.ldFVx x) :=
  statement_of _ ⟨"LD_F__Vx", 0xF029, 0xF0FF⟩ (by decide) rfl ((formatFK_and ..).trans rfl)

theorem ldBVx (x : RegIx) : Statement (.ldBVx x) :=
  statement_of _ ⟨"LD_B__Vx", 0xF033, 0xF0FF⟩ (by decide) rfl ((formatFK_and ..).trans rfl)

theorem ldIndVx (x : RegIx) : Statement (.ldIndVx x) :=
  statement_of _ ⟨"LD__I___Vx", 0xF055, 0xF0FF⟩ (by decide) rfl ((formatFK_and ..).trans rfl)

theorem ldVxInd (x : RegIx) : Statement (.ldVxInd x) :=
  statement_of _ ⟨"LD_Vx___I", 0xF065, 0xF0FF⟩ (by decide) rfl ((formatFK_and ..).trans rfl)

end Sys2Proof.Laws.TableRow
end

