-- ==== Sys2Proof/Laws/Ports.lean ====
section
/-! SUPPORT. The step port, and the end of a run (70_reset_and_hazards.md R273). -/

namespace Sys2Proof.Machine

variable (s t : State)

/-! ### The step port -/

theorem State.stepPort_of_next (h : step s = .next t) : s.stepPort = (t, .stepped t.result) := by
  simp [State.stepPort, h]

/-- A fetch fault at the port (60_exceptions.md R237): the reply, and the block as it was. -/
theorem State.stepPort_of_fault (a : Nat) (h : step s = .fault (.addressOutOfRange a)) :
    s.stepPort = (s.recordFailure (.addressOutOfRange a), .stepped (.addressOutOfRange a)) := by
  simp [State.stepPort, h]

/-- Everything the step port can do: the cases of `step_cases`, a next state or the recorded fetch fault. -/
theorem State.stepPort_cases :
    (∃ x, s.mode = .awaitingKey x ∧
      ((∃ k : RegIx, s.keys[k] = true ∧ s.stepPort.1 = ((s.setV x (BitVec.ofNat 8 k.val)).setMode .running).report .ok) ∨
        s.stepPort.1 = s.report .waiting)) ∨
    (s.mode = .running ∧ ∃ a, s.fetch = .error a ∧ s.stepPort.1 = s.recordFailure (.addressOutOfRange a)) ∨
    (s.mode = .running ∧ ∃ op e, s.fetch = .ok op ∧ decode s.config op = .error e ∧
      s.stepPort.1 = s.advancePc.recordFailure (.unknownOpcode op)) ∨
    ∃ i, Safety.Runs s i ∧ exec i s.advancePc = .next s.stepPort.1 := by
  rcases step_cases s with ⟨x, hm, hs⟩ | ⟨hm, a, hf, hs⟩ | ⟨hm, op, e, hf, hd, hs⟩ | ⟨hm, op, i, hf, hd, hs⟩
  · refine .inl ⟨x, hm, ?_⟩
    rcases keywaitPoll_cases s x with ⟨k, hk, -, hp⟩ | ⟨-, hp⟩
    · exact .inl ⟨k, hk, by rw [s.stepPort_of_next _ (hs.trans hp)]⟩
    · exact .inr (by rw [s.stepPort_of_next _ (hs.trans hp)])
  · exact .inr (.inl ⟨hm, a, hf, by rw [s.stepPort_of_fault _ hs]⟩)
  · exact .inr (.inr (.inl ⟨hm, op, e, hf, hd, by rw [s.stepPort_of_next _ hs]⟩))
  · refine .inr (.inr (.inr ⟨i, ⟨hm, op, hf, hd⟩, ?_⟩))
    rcases exec_cases s.advancePc i with ⟨u, hu⟩ | ⟨r, hr, -⟩
    · rw [s.stepPort_of_next _ (hs.trans hu)]; exact hu
    · rw [s.stepPort_of_next _ (hs.trans hr)]; exact hr

/-! ### The end of a run -/

/-- Where the host stops, the run has ended unless a fault or a key wait is pending. -/
theorem stopHere_eq_ended : stopHere s = .ended t ↔ s = t ∧ s.mode = .running ∧ s.result.isFault = false := by
  unfold stopHere
  cases s.result.isFault <;> cases s.mode <;> simp

theorem State.atSelfJump_running (h : s.atSelfJump = true) : s.mode = .running := by
  unfold State.atSelfJump at h
  split at h
  · assumption
  · simp at h

/-- A run that stops on a fault, or inside a key wait, has not ended. -/
theorem Ended.running_and_no_fault {ignoreFaults : Bool} {budget : Nat} {script : List Transaction} {s t : State}
    (h : Safety.Ended ignoreFaults budget script s t) : t.mode = .running ∧ t.result.isFault = false := by
  unfold Safety.Ended at h
  induction script generalizing budget s with
  | nil => obtain ⟨rfl, hs⟩ := (stopHere_eq_ended s t).1 h; exact hs
  | cons tr rest ih =>
    simp only [runToEnd] at h
    split at h
    · obtain ⟨rfl, hs⟩ := (stopHere_eq_ended s t).1 h; exact hs
    split at h
    · exact ih h
    split at h
    · split at h
      · exact ih h
      · obtain ⟨rfl, hs⟩ := (stopHere_eq_ended _ t).1 h; exact hs
    · next hr =>
      split at h
      · next hj => cases h; exact ⟨State.atSelfJump_running _ hj, by simpa using hr⟩
      · exact ih h

end Sys2Proof.Machine
end

