-- ==== Sys2Proof/Tests/Slice0.lean ====
section
/-! SUPPORT. Small checks of the model against the spec's own vectors (95_test_vectors.md, cited by their ids), and for each statement with
hypotheses a named witness that meets them. No expected value comes from a run of the model. -/

namespace Sys2Proof.Tests

open Sys2Proof.Machine Sys2Proof.Safety

/-! ### Helpers -/

/-- Reset, with some registers set. -/
def withRegs (l : List (RegIx × Byte)) : State := l.foldl (fun s p => s.setV p.1 p.2) State.reset

/-- One step on the word `w`. -/
def run (w : Nat) (s : State) : Option State :=
  match step (s.withFetchWord 16 w) with
  | .next t => some t
  | .fault _ => none
  | .refused _ => none

/-- What is seen of the state after. -/
def seen {α : Type} (o : Option State) (f : State → α) : Option α := o.map f

/-- Two registers and PC. -/
def regs2 (a b : RegIx) (t : State) : Byte × Byte × Word × Result := (t.v[a], t.v[b], t.pc, t.result)

/-- PC and the result. -/
def pcResult (t : State) : Word × Result := (t.pc, t.result)

/-- The lit pixels of one row, by column. -/
def litRow (r : Fin 32) (t : State) : List Nat := (t.disp[r].toList.zipIdx.filter (fun p => p.1)).map (fun p => p.2)

/-- How many pixels are lit. -/
def litCount (t : State) : Nat := (t.disp.toList.map (fun row => (row.toList.filter id).length)).sum

/-- A display with one pixel lit. -/
def oneLit (r c : Nat) : Display := setPixel clearDisplay r c true

/-- The parameters without Fx0A. -/
def noKeywait : Config := { defaultConfig with keywaitImpl := false }

/-- The parameters under which addresses are taken modulo 4096. -/
def wrapConfig : Config := { defaultConfig with addrPolicy := .wrap12 }

/-- V[i] = i * 0x11 (vector M12). -/
def rampRegs (s : State) : State :=
  { s with v := #v[0x00, 0x11, 0x22, 0x33, 0x44, 0x55, 0x66, 0x77, 0x88, 0x99, 0xAA, 0xBB, 0xCC, 0xDD, 0xEE, 0xFF] }

/-! ### WellFormed (30_encoding.md R77) -/

theorem test_wellFormed_refuses_keywait_when_not_implemented : WellFormed noKeywait (.ldVxK 5) = false := by decide
theorem test_wellFormed_accepts_keywait_when_implemented : WellFormed defaultConfig (.ldVxK 5) = true := by decide
theorem test_wellFormed_accepts_others : WellFormed noKeywait (.addVxKk 0xC 0xFF) = true := by decide

/-! ### Decoding: words written out bit by bit from the patterns of 30_encoding.md R72 and R74 -/

theorem test_decode_cls : decode noKeywait 0b0000000011100000 = .ok .cls := by decide
theorem test_decode_ret : decode noKeywait 0b0000000011101110 = .ok .ret := by decide
theorem test_decode_jpNnn : decode noKeywait 0b0001001000110100 = .ok (.jpNnn 0x234) := by decide
theorem test_decode_callNnn : decode noKeywait 0b0010101000001011 = .ok (.callNnn 0xA0B) := by decide
theorem test_decode_seVxKk : decode noKeywait 0b0011101001011100 = .ok (.seVxKk 0xA 0x5C) := by decide
theorem test_decode_sneVxKk : decode noKeywait 0b0100010110100011 = .ok (.sneVxKk 5 0xA3) := by decide
theorem test_decode_seVxVy : decode noKeywait 0b0101001111010000 = .ok (.seVxVy 3 0xD) := by decide
theorem test_decode_ldVxKk : decode noKeywait 0b0110111100000001 = .ok (.ldVxKk 0xF 1) := by decide
theorem test_decode_addVxKk : decode noKeywait 0b0111110011111111 = .ok (.addVxKk 0xC 0xFF) := by decide
theorem test_decode_ldVxVy : decode noKeywait 0b1000111100010000 = .ok (.ldVxVy 0xF 1) := by decide
theorem test_decode_orVxVy : decode noKeywait 0b1000000110100001 = .ok (.orVxVy 1 0xA) := by decide
theorem test_decode_andVxVy : decode noKeywait 0b1000001011000010 = .ok (.andVxVy 2 0xC) := by decide
theorem test_decode_xorVxVy : decode noKeywait 0b1000111001110011 = .ok (.xorVxVy 0xE 7) := by decide
theorem test_decode_addVxVy : decode noKeywait 0b1000000000010100 = .ok (.addVxVy 0 1) := by decide
theorem test_decode_subVxVy : decode noKeywait 0b1000101000100101 = .ok (.subVxVy 0xA 2) := by decide
theorem test_decode_shrVx : decode noKeywait 0b1000000111110110 = .ok (.shrVx 1 0xF) := by decide
theorem test_decode_subnVxVy : decode noKeywait 0b1000010010010111 = .ok (.subnVxVy 4 9) := by decide
theorem test_decode_shlVx : decode noKeywait 0b1000111100001110 = .ok (.shlVx 0xF 0) := by decide
theorem test_decode_sneVxVy : decode noKeywait 0b1001110100110000 = .ok (.sneVxVy 0xD 3) := by decide
theorem test_decode_ldINnn : decode noKeywait 0b1010000100100011 = .ok (.ldINnn 0x123) := by decide
theorem test_decode_jpV0Nnn : decode noKeywait 0b1011111111111110 = .ok (.jpV0Nnn 0xFFE) := by decide
theorem test_decode_rndVxKk : decode noKeywait 0b1100001100001111 = .ok (.rndVxKk 3 0x0F) := by decide
theorem test_decode_drwVxVyN : decode noKeywait 0b1101001111010010 = .ok (.drwVxVyN 3 0xD 2) := by decide
theorem test_decode_skpVx : decode noKeywait 0b1110010010011110 = .ok (.skpVx 4) := by decide
theorem test_decode_sknpVx : decode noKeywait 0b1110101110100001 = .ok (.sknpVx 0xB) := by decide
theorem test_decode_ldVxDt : decode noKeywait 0b1111111100000111 = .ok (.ldVxDt 0xF) := by decide
theorem test_decode_ldVxK : decode defaultConfig 0b1111010100001010 = .ok (.ldVxK 5) := by decide
theorem test_decode_ldDtVx : decode noKeywait 0b1111001100010101 = .ok (.ldDtVx 3) := by decide
theorem test_decode_ldStVx : decode noKeywait 0b1111110000011000 = .ok (.ldStVx 0xC) := by decide
theorem test_decode_addIVx : decode noKeywait 0b1111001000011110 = .ok (.addIVx 2) := by decide
theorem test_decode_ldFVx : decode noKeywait 0b1111101000101001 = .ok (.ldFVx 0xA) := by decide
theorem test_decode_ldBVx : decode noKeywait 0b1111011000110011 = .ok (.ldBVx 6) := by decide
theorem test_decode_ldIndVx : decode noKeywait 0b1111111001010101 = .ok (.ldIndVx 0xE) := by decide
theorem test_decode_ldVxInd : decode noKeywait 0b1111000101100101 = .ok (.ldVxInd 1) := by decide

/-- Words no row lists (vectors X5 to X11). -/
theorem test_decode_unknown :
    [0x0000, 0x0123, 0x5121, 0x8008, 0x9AB1, 0xE0FF, 0xF0FF, 0xF50A].map (fun w => decode noKeywait w) =
      [0x0000, 0x0123, 0x5121, 0x8008, 0x9AB1, 0xE0FF, 0xF0FF, 0xF50A].map (fun w => .error (.unknownOpcode w)) := by decide

/-- The encoder, on the source's example word of each format. -/
theorem test_encode : [encode .cls, encode (.callNnn 0xA0B), encode (.addVxKk 0xC 0xFF), encode (.shlVx 0xF 0),
    encode (.drwVxVyN 3 0xD 2), encode (.ldVxK 5)] = [0x00E0, 0x2A0B, 0x7CFF, 0x8F0E, 0xD3D2, 0xF50A] := by decide

/-- Bytes in memory order, the first the high one; one byte is no instruction. -/
theorem test_decodeBytes_takes_two : decodeBytes defaultConfig [0x6A, 0x42, 0x99] = .ok (.ldVxKk 0xA 0x42, [0x99]) := by decide
theorem test_decodeBytes_one_byte : decodeBytes defaultConfig [0x6A] = .error .tooFewBytes := by decide

/-! ### The step (vectors X1 to X11) -/

theorem test_step_odd_pc : seen (run 0x6A42 (State.reset.setPc 0x301)) (fun t => (t.v[10], t.pc)) = some (0x42, 0x303) := by decide
theorem test_step_fetch_fault : step (State.reset.setPc 0xFFF) = .fault (.addressOutOfRange 0x1000) := rfl
theorem test_step_last_word : seen (run 0x00E0 (State.reset.setPc 0xFFE)) pcResult = some (0x1000, .ok) := by decide
theorem test_step_unknown_no_skip : seen (run 0x5121 (withRegs [(1, 7), (2, 7)])) pcResult = some (0x202, .unknownOpcode 0x5121) := by decide
theorem test_step_reset_word_unknown : seen (run 0x0000 State.reset) pcResult = some (0x202, .unknownOpcode 0x0000) := by decide
theorem test_step_keywait_not_implemented :
    seen (run 0xF50A { State.reset with config := noKeywait }) (fun t => (t.pc, t.mode, t.result)) =
      some (0x202, .running, .unknownOpcode 0xF50A) := by decide

/-! ### Control transfer (F1 to F17) -/

theorem test_ret_keeps_entry :
    seen (run 0x00EE ((State.reset.setStack (State.reset.stack.set 15 0x456)).setSp 16)) (fun t => (t.pc, t.sp.val, t.stack[15])) =
      some (0x456, 15, 0x456) := by decide
theorem test_ret_underflow : seen (run 0x00EE State.reset) (fun t => (t.pc, t.sp.val, t.result, t.firstFailure)) =
    some (0x202, 0, .stackUnderflow, some .stackUnderflow) := by decide
theorem test_call_last_entry : seen (run 0x2400 (State.reset.setSp 15)) (fun t => (t.sp.val, t.stack[15], t.pc)) = some (16, 0x202, 0x400) := by decide
theorem test_call_overflow : seen (run 0x2400 (State.reset.setSp 16)) (fun t => (t.pc, t.sp.val, t.stack[15], t.result)) =
    some (0x202, 16, 0, .stackOverflow) := by decide
theorem test_jp_odd : seen (run 0x1301 State.reset) pcResult = some (0x301, .ok) := by decide
theorem test_jp_self : seen (run 0x1200 State.reset) pcResult = some (0x200, .ok) := by decide
theorem test_jpV0_largest : seen (run 0xBFFF (withRegs [(0, 0xFF)])) pcResult = some (0x10FE, .ok) := by decide
theorem test_jpV0_then_fetch_fault : step (State.reset.setPc 0x10FE) = .fault (.addressOutOfRange 0x10FE) := rfl
theorem test_seKk_equal : seen (run 0x3042 (withRegs [(0, 0x42)])) pcResult = some (0x204, .ok) := by decide
theorem test_seKk_different : seen (run 0x3043 (withRegs [(0, 0x42)])) pcResult = some (0x202, .ok) := by decide
theorem test_sneKk_equal : seen (run 0x4042 (withRegs [(0, 0x42)])) pcResult = some (0x202, .ok) := by decide
theorem test_sneKk_different : seen (run 0x4043 (withRegs [(0, 0x42)])) pcResult = some (0x204, .ok) := by decide
theorem test_seVy_same_register : seen (run 0x5110 State.reset) pcResult = some (0x204, .ok) := by decide
theorem test_seVy_equal : seen (run 0x5120 (withRegs [(1, 3), (2, 3)])) pcResult = some (0x204, .ok) := by decide
theorem test_sneVy_same_register : seen (run 0x9110 State.reset) pcResult = some (0x202, .ok) := by decide
theorem test_sneVy_different : seen (run 0x9120 (withRegs [(1, 3), (2, 4)])) pcResult = some (0x204, .ok) := by decide

/-! ### Arithmetic and logic (S2, A1 to A30) -/

theorem test_ldKk_a1 : seen (run 0x6AFF (withRegs [(15, 7)])) (regs2 10 15) = some (0xFF, 0x07, 0x202, .ok) := by decide
theorem test_addKk_s2 : seen (run 0x7CFF (withRegs [(12, 0x90)])) (regs2 12 15) = some (0x8F, 0, 0x202, .ok) := by decide
theorem test_addKk_vf_wraps : seen (run 0x7FFF (withRegs [(15, 1)])) (regs2 15 0) = some (0, 0, 0x202, .ok) := by decide
theorem test_ldVy_a4 : seen (run 0x8F10 (withRegs [(1, 7)])) (regs2 15 1) = some (7, 7, 0x202, .ok) := by decide
theorem test_or_a5 : seen (run 0x8011 (withRegs [(0, 0x0F), (1, 0xF0), (15, 1)])) (regs2 0 15) = some (0xFF, 1, 0x202, .ok) := by decide
theorem test_and_a6 : seen (run 0x8002 (withRegs [(0, 0xAA)])) (regs2 0 15) = some (0xAA, 0, 0x202, .ok) := by decide
theorem test_and_low_bits : seen (run 0x8012 (withRegs [(0, 0xAA), (1, 0x0F)])) (regs2 0 1) = some (0x0A, 0x0F, 0x202, .ok) := by decide
theorem test_xor_a7 : seen (run 0x8003 (withRegs [(0, 0xAA), (15, 1)])) (regs2 0 15) = some (0, 1, 0x202, .ok) := by decide
theorem test_xor_a8 : seen (run 0x8F13 (withRegs [(15, 0xAA)])) (regs2 15 1) = some (0xAA, 0, 0x202, .ok) := by decide
theorem test_add_carry_a9 : seen (run 0x8014 (withRegs [(0, 0xFF), (1, 1)])) (regs2 0 15) = some (0, 1, 0x202, .ok) := by decide
theorem test_add_flag_wins_a14 : seen (run 0x8F14 (withRegs [(15, 0x10), (1, 0xF5)])) (regs2 15 1) = some (1, 0xF5, 0x202, .ok) := by decide
theorem test_sub_borrow_a16 : seen (run 0x8015 (withRegs [(1, 1)])) (regs2 0 15) = some (0xFF, 0, 0x202, .ok) := by decide
theorem test_sub_equal_a17 : seen (run 0x8005 (withRegs [(0, 0x42)])) (regs2 0 15) = some (0, 1, 0x202, .ok) := by decide
theorem test_subn_borrow_a19 : seen (run 0x8017 (withRegs [(0, 1)])) (regs2 0 15) = some (0xFF, 0, 0x202, .ok) := by decide
theorem test_subn_equal_a20 : seen (run 0x8007 (withRegs [(0, 9)])) (regs2 0 15) = some (0, 1, 0x202, .ok) := by decide
theorem test_shr_y_ignored_a22 : seen (run 0x80F6 (withRegs [(0, 0xFF)])) (regs2 0 15) = some (0x7F, 1, 0x202, .ok) := by decide
theorem test_shr_flag_wins_a24 : seen (run 0x8FF6 (withRegs [(15, 3)])) (regs2 15 0) = some (1, 0, 0x202, .ok) := by decide
theorem test_shl_a25 : seen (run 0x801E (withRegs [(0, 0x80)])) (regs2 0 15) = some (0, 1, 0x202, .ok) := by decide
theorem test_shl_flag_wins_a27 : seen (run 0x8F0E (withRegs [(15, 0x40)])) (regs2 15 0) = some (0, 0, 0x202, .ok) := by decide
theorem test_rnd_a28 : seen (run 0xC300 State.reset) (fun t => (t.v[3], t.draws)) = some (Config.rnd 0 &&& 0x00, 1) := by rfl
theorem test_rnd_second_draw : seen (run 0xC30F { State.reset with draws := 7 }) (fun t => (t.v[3], t.pc)) = some (Config.rnd 7 &&& 0x0F, 0x202) := by rfl

/-! ### Index register and memory (M1 to M17) -/

theorem test_ldI_m1 : seen (run 0xA123 State.reset) (fun t => (t.i, t.pc)) = some (0x123, 0x202) := by decide
theorem test_addI_wraps_m2 : seen (run 0xF01E ((withRegs [(0, 1)]).setI 0xFFFF)) (fun t => (t.i, t.v[15])) = some (0, 0) := by decide
theorem test_addI_no_mask_m3 : seen (run 0xF21E ((withRegs [(2, 5)]).setI 0xFFE)) (fun t => (t.i, t.v[15])) = some (0x1003, 0) := by decide
theorem test_ldF_not_masked_m5 : seen (run 0xF029 (withRegs [(0, 0xFF)])) (fun t => t.i) = some 0x4FB := by decide
theorem test_ldF_m6 : seen (run 0xF029 (withRegs [(0, 0x0F)])) (fun t => t.i) = some 0x4B := by decide
theorem test_ldB_m9 : seen (run 0xF033 ((withRegs [(0, 156)]).setI 0x300)) (fun t => (t.readBytes 0x2FF 5, t.i)) =
    some ([0, 1, 5, 6, 0], 0x300) := by decide
theorem test_store_m12 : seen (run 0xFF55 (rampRegs (State.reset.setI 0xFF0))) (fun t => (t.readBytes 0xFEF 17, t.i)) =
    some ([0x00, 0x00, 0x11, 0x22, 0x33, 0x44, 0x55, 0x66, 0x77, 0x88, 0x99, 0xAA, 0xBB, 0xCC, 0xDD, 0xEE, 0xFF], 0xFF0) := by decide
theorem test_store_fault_m13 : seen (run 0xFF55 (rampRegs (State.reset.setI 0xFF1))) (fun t => (t.readBytes 0xFF1 15, t.pc, t.result)) =
    some (List.replicate 15 0, 0x202, .addressOutOfRange 0x1000) := by decide
theorem test_load_fault_m14 : seen (run 0xF065 (State.reset.setI 0x1003)) (fun t => (t.v[0], t.pc, t.result)) =
    some (0, 0x202, .addressOutOfRange 0x1003) := by decide
theorem test_load_stops_at_x : seen (run 0xF165 (State.reset.writeBytes 0x400 [0xA0, 0xA1, 0xA2] |>.setI 0x400)) (fun t => (t.v[0], t.v[1], t.v[2], t.i)) =
    some (0xA0, 0xA1, 0, 0x400) := by decide

/-- Under wrap12 the addresses are taken modulo 4096 (20_memory.md R55). -/
theorem test_ldB_wrap12 : seen (run 0xF033 { (withRegs [(0, 156)]).setI 0xFFE with config := wrapConfig })
    (fun t => (t.byteAt 0xFFE, t.byteAt 0xFFF, t.byteAt 0, t.result)) = some (1, 5, 6, .ok) := by decide

/-! ### Display (DR1, DR2, DR8) -/

theorem test_drw_wraps_dr1 : seen (run 0xD012 (((withRegs [(0, 60), (1, 31)]).writeBytes 0x300 [0xFF, 0x81]).setI 0x300))
    (fun t => (litRow 31 t, litRow 0 t, litCount t, t.v[15])) = some ([0, 1, 2, 3, 60, 61, 62, 63], [3, 60], 10, 0) := by decide
theorem test_drw_collision_dr2 : seen (run 0xD001 (((State.reset.writeBytes 0x300 [0x80]).setI 0x300).setDisp (oneLit 0 0)))
    (fun t => (litCount t, t.v[15])) = some (0, 1) := by decide
theorem test_cls_dr8 : seen (run 0x00E0 ((withRegs [(15, 1)]).setDisp (oneLit 5 9))) (fun t => (litCount t, t.v[15])) = some (0, 1) := by decide

/-! ### Timers and keypad (T1 to T15) -/

theorem test_ldDt_t1 : seen (run 0xFF07 (State.reset.setDt 0x3C)) (regs2 15 0) = some (0x3C, 0, 0x202, .ok) := by decide
theorem test_setDt_t2 : seen (run 0xF315 (withRegs [(3, 0x3C)])) (fun t => (t.dt, t.st)) = some (0x3C, 0) := by decide
theorem test_setSt_t3 : seen (run 0xF318 (withRegs [(3, 2)])) (fun t => (t.dt, t.st, t.soundActivePort)) = some (0, 2, true) := by decide
theorem test_tick_t4 : ((State.reset.setSt 2).tickTimersPort.dt, (State.reset.setSt 2).tickTimersPort.st) = (0, 1) := by decide
theorem test_tick_t5 : ((State.reset.setSt 1).tickTimersPort.st, (State.reset.setSt 1).tickTimersPort.soundActivePort) = (0, false) := by decide
theorem test_skp_down_t6 : seen (run 0xE49E ((withRegs [(4, 5)]).setKeys ((Vector.replicate 16 false).set 5 true))) pcResult = some (0x204, .ok) := by decide
theorem test_skp_up_t7 : seen (run 0xE49E (withRegs [(4, 5)])) pcResult = some (0x202, .ok) := by decide
theorem test_sknp_up_t8 : seen (run 0xE0A1 (withRegs [(0, 15)])) pcResult = some (0x204, .ok) := by decide
theorem test_sknp_index_16 : seen (run 0xE0A1 (withRegs [(0, 16)])) pcResult = some (0x202, .keyIndexOutOfRange 16) := by decide
theorem test_ldK_t10 : seen (run 0xF50A State.reset) (fun t => (t.mode, t.pc, t.v[5])) = some (.awaitingKey 5, 0x202, 0) := by decide
theorem test_poll_waiting_t11 : step (State.reset.setMode (.awaitingKey 5)) = .next ((State.reset.setMode (.awaitingKey 5)).report .waiting) := rfl
theorem test_tick_in_wait_t13 : ((State.reset.setMode (.awaitingKey 5)).setDt 2).tickTimersPort.dt = 1 := by decide
theorem test_setKey_refused_t14 : State.reset.setKeyPort 16 true = none := by decide
theorem test_bulk_keys_t15 : (transact (.updateKeys (Vector.replicate 16 true)) State.reset).1.keys = Vector.replicate 16 true := by decide

/-- T12: keys 3 and 9 are down; the least one ends the wait. -/
def keys39 : State :=
  (State.reset.setMode (.awaitingKey 5)).setKeys (((Vector.replicate 16 false).set 3 true).set 9 true)

theorem test_poll_least_key_t12 : step keys39 = .next (((keys39.setV 5 3).setMode .running).report .ok) := rfl

/-! ### Host operations (H1 to H7) -/

theorem test_load_keeps_pc_h4 : (((State.reset.setPc 0x300).loadPort [0x12, 0x00]).1.readBytes 0x200 2,
    ((State.reset.setPc 0x300).loadPort [0x12, 0x00]).1.pc, ((State.reset.setPc 0x300).loadPort [0x12, 0x00]).2) =
      ([0x12, 0x00], 0x300, (2, .ok)) := by decide
theorem test_load_shorter_rom_h5 : ((State.reset.writeBytes 0x200 [0xAA, 0xBB, 0xCC, 0xDD]).loadPort [0x11]).1.readBytes 0x200 4 =
    [0x11, 0xBB, 0xCC, 0xDD] := by decide
theorem test_load_empty_h3 : State.reset.loadPort [] = (State.reset, 0, .ok) := by decide
theorem test_load_too_large_h2 : State.reset.loadPort (List.replicate 3585 0xAB) = (State.reset, 0, .programTooLarge) :=
  if_neg (by rw [List.length_replicate]; decide)
/-- For the end of a run (R273): the word 00EE, which faults at SP = 0, with a self-jump behind it. -/
def jumpBehindRet : State := (transact (.load [0x00, 0xEE, 0x12, 0x02]) State.reset).1

theorem test_run_ends_at_self_jump : runToEnd false 9 [.step, .step] ((State.reset.setPc 0x202).withFetchWord 16 0x1202) =
    .ended (((State.reset.setPc 0x202).withFetchWord 16 0x1202).report .ok) := by rfl
theorem test_run_stops_on_fault : runToEnd false 9 [.step, .step] jumpBehindRet = .onFault (jumpBehindRet.stepPort.1) ∧
    jumpBehindRet.stepPort.1.atSelfJump = true := ⟨rfl, by decide⟩
theorem test_run_ignores_fault_then_ends : runToEnd true 9 [.step, .step] jumpBehindRet = .ended (jumpBehindRet.stepPort.1.stepPort.1) := by rfl
theorem test_run_budget_and_wait : runToEnd false 0 [.step] State.reset = .ended State.reset ∧
    runToEnd false 1 [.step, .tickTimers] (State.reset.setMode (.awaitingKey 5)) = .inKeyWait ((State.reset.setMode (.awaitingKey 5)).report .waiting) :=
  ⟨rfl, rfl⟩

theorem test_reset_h6 : (rampRegs keys39).resetPort = State.reset := by decide

/-- A write back of the reset byte leaves no cell: equal memories are equal data. -/
theorem test_memory_canonical : ((State.reset.memWrite 0x300 5).memWrite 0x300 0).mem = [] := by decide
theorem test_memory_sorted : ((State.reset.memWrite 0x301 5).memWrite 0x300 6).mem = [(0x300, 6), (0x301, 5)] := by decide

/-! ### Witnesses: for each statement of Certificates/Slice0/Obligations.lean with hypotheses, states and operands that meet them, clause by
clause, at the boundary values -/

/-- The state after a step or an instruction, when there is one, has this property. -/
def next (o : Host.Outcome State Fault Refusal) (p : State → Bool) : Bool :=
  match o with
  | .next t => p t
  | .fault _ => false
  | .refused _ => false

/-- A state at the edges of the invariant: the jump BFFF in the last word of memory, V0 = 0xFF, a full stack with a return address 0x1000. -/
def edge : State :=
  (((withRegs [(0, 0xFF)]).setPc 0xFFE).setStack (Vector.replicate 16 0x1000) |>.setSp 16).placeWord 0xBFFF

theorem edge_inv : Inv edge where
  mem := by decide
  pc _ := by decide
  stack _ := by decide

theorem witness_DecodeOfEncode : WellFormed defaultConfig (.ldVxK 15) = true ∧ WellFormed noKeywait (.drwVxVyN 15 0 15) = true := by decide

theorem witness_EncodeOfDecode : decode defaultConfig 0xFF0A = .ok (.ldVxK 15) ∧ decode noKeywait 0xDF0F = .ok (.drwVxVyN 15 0 15) := by decide

theorem witness_DecodeAgrees :
    (∃ i, decode defaultConfig 0xF50A = .ok i) ∧ (∃ e, decode noKeywait 0xF50A = .error e) ∧
    (∃ r ∈ opcodeTable, rowMatches r 0xF50A = true ∧ (r.mnemonic = "LD_Vx__K" → defaultConfig.keywaitImpl = true)) ∧
    (∃ e, decode defaultConfig 0x0123 = .error e) ∧ ¬ ∃ r ∈ opcodeTable, rowMatches r 0x0123 = true :=
  ⟨⟨.ldVxK 5, by decide⟩, ⟨.unknownOpcode 0xF50A, by decide⟩, by decide, ⟨.unknownOpcode 0x0123, by decide⟩, by decide⟩

/-- The last font byte, the first byte after it and the last byte of memory, each changed before the reset. -/
theorem witness_ResetLeaves : let s := ((edge.memWrite 79 1).memWrite 80 2).memWrite 4095 3
    (s.byteAt 79, s.byteAt 80, s.byteAt 4095) = (1, 2, 3) ∧
    (s.resetPort.byteAt 79, s.resetPort.byteAt 80, s.resetPort.byteAt 4095) = (0x80, 0, 0) := by decide

theorem witness_ResetThenLoad : edge.config = defaultConfig ∧ edge ≠ State.reset := by decide

theorem witness_Load : (List.replicate 3584 (0xAB : Byte)).length ≤ 3584 ∧ 3584 < (List.replicate 3585 (0xAB : Byte)).length ∧
    (List.replicate 0 (0xAB : Byte)).length ≤ 3584 := by
  simp only [List.length_replicate]; decide

theorem witness_ProgramTooLarge : ∃ t, step edge = .next t := ⟨_, rfl⟩

theorem witness_EveryStepKeeps : Inv edge ∧ ∃ t, step edge = .next t ∧ t.pc = 0x10FE := ⟨edge_inv, _, rfl, by decide⟩

theorem witness_EveryTransactionKeeps : Inv edge := edge_inv

theorem witness_StepRuns : edge.mode = .running ∧ InRange edge edge.pc.toNat 2 ∧
    decode edge.config (wordOfBytes (edge.memRead edge.pc.toNat) (edge.memRead (edge.pc.toNat + 1))) = .ok (.jpV0Nnn 0xFFF) :=
  ⟨by decide, fun _ => by decide, by decide⟩

theorem witness_FetchIsBigEndian : edge.pc.toNat + 1 < 4096 := by decide

/-- PC = 0xFFF under wrap12: the word wraps to address 0. -/
def wrapEdge : State := { State.reset.setPc 0xFFF with config := wrapConfig }

theorem witness_FetchUnderWrap12 : wrapEdge.config.addrPolicy = .wrap12 := by decide

/-- A step stops at PC = 0xFFF; it does not at 0xFFE, under wrap12, or in a key wait. -/
theorem witness_StepStops :
    step (State.reset.setPc 0xFFF) = .fault (.addressOutOfRange (max 0xFFF 0x1000)) ∧ (∃ t, step (State.reset.setPc 0xFFE) = .next t) ∧
    (∃ t, step wrapEdge = .next t) ∧ ∃ t, step ((State.reset.setPc 0xFFF).setMode (.awaitingKey 0)) = .next t :=
  ⟨rfl, ⟨_, rfl⟩, ⟨_, rfl⟩, ⟨_, rfl⟩⟩

theorem witness_UnknownWord : State.reset.mode = .running ∧ State.reset.fetch = .ok 0x0000 ∧
    decode State.reset.config 0x0000 = .error (.unknownOpcode 0x0000) := ⟨rfl, rfl, by decide⟩

/-- A step that reports `Ok`, for each case of the statement, both ways of each skip; and one that does not. -/
theorem witness_PcAfterAStep :
    ([0x1200, 0x2300, 0xBFFF, 0x00EE, 0x30FF, 0x30FE, 0x40FF, 0x40FE, 0x5010, 0x5120, 0x9010, 0x9120, 0xE19E, 0xE1A1, 0x6A42].all
      (fun w => next (step (((withRegs [(0, 0xFF)]).setSp 15).withFetchWord 16 w)) (fun t => t.result == .ok))) = true ∧
    next (step (State.reset.withFetchWord 16 0x00EE)) (fun t => t.result == .stackUnderflow) = true := by decide

theorem witness_AFaultingStep : (∃ t, step (State.reset.withFetchWord 16 0x00EE) = .next t ∧ t.result.isFault = true) ∧
    (State.reset.setPc 0xFFF).mode = .running ∧ (State.reset.setPc 0xFFF).config.addrPolicy = .fault ∧ 0xFFF ≤ (State.reset.setPc 0xFFF).pc.toNat :=
  ⟨⟨_, rfl, by decide⟩, by decide⟩

/-- 2nnn at SP = 15 and 16, 00EE at SP = 1 and 0. -/
theorem witness_StackFaults :
    next (exec (.callNnn 0x300) (State.reset.setSp 16)) (fun t => t.result == .stackOverflow) = true ∧
    next (exec (.callNnn 0x300) (State.reset.setSp 15)) (fun t => t.result == .ok) = true ∧
    next (exec .ret (State.reset.setSp 0)) (fun t => t.result == .stackUnderflow) = true ∧
    next (exec .ret (State.reset.setSp 1)) (fun t => t.result == .ok) = true := by decide

/-- The last base that is in range, the first that is not, the empty range, and wrap12. -/
theorem witness_AddressFaults :
    next (exec (.ldBVx 0) (State.reset.setI 0xFFE)) (fun t => t.result == .addressOutOfRange (max 0xFFE 0x1000)) = true ∧
    next (exec (.ldBVx 0) (State.reset.setI 0xFFD)) (fun t => t.result == .ok) = true ∧
    next (exec (.drwVxVyN 0 0 0) (State.reset.setI 0xFFFF)) (fun t => t.result == .ok) = true ∧
    next (exec (.drwVxVyN 0 0 1) (State.reset.setI 0xFFFF)) (fun t => t.result == .addressOutOfRange 0xFFFF) = true ∧
    next (exec (.ldIndVx 15) (wrapEdge.setI 0xFFFF)) (fun t => t.result == .ok) = true ∧
    next (exec (.ldVxInd 15) (State.reset.setI 0xFF1)) (fun t => t.result == .addressOutOfRange 0x1000) = true := by decide

theorem witness_KeyFaults :
    next (exec (.skpVx 0) (withRegs [(0, 16)])) (fun t => t.result == .keyIndexOutOfRange 16) = true ∧
    next (exec (.sknpVx 0) (withRegs [(0, 16)])) (fun t => t.result == .keyIndexOutOfRange 16) = true ∧
    next (exec (.skpVx 0) (withRegs [(0, 15)])) (fun t => t.result == .ok) = true := by decide

theorem witness_ReturnPops : 0 < (State.reset.setSp 1).sp.val ∧ 0 < (State.reset.setSp 16).sp.val ∧ State.reset.sp = 0 := by decide

theorem witness_CallPushes : (State.reset.setSp 15).sp.val < 16 ∧ (State.reset.setSp 16).sp = 16 := by decide

/-- A word 5xyN or 9xyN with N not 0. -/
theorem witness_SkipsOnTwoRegisters : (0x1 : BitVec 4) ≠ 0 ∧ (0xF : BitVec 4) ≠ 0 := by decide

/-- A call at SP = 15, other registers changed in between. -/
theorem witness_ReturnUndoesACall : ∃ t u : State, exec (.callNnn 0x300) (State.reset.setSp 15) = .next t ∧ t.result = .ok ∧ u.sp = t.sp ∧
    u.stack = t.stack ∧ u ≠ t :=
  ⟨_, (((State.reset.setSp 15).push 0x200).getD State.reset).setV 3 7, rfl, by decide, by decide, by decide, by decide⟩

/-- A destination that is not VF, for 8xy4 to 8xy7 and 8xyE. -/
theorem witness_AluDestination : (0 : RegIx) ≠ vf ∧ (14 : RegIx) ≠ vf := by decide

theorem witness_DecimalDigits : InRange (State.reset.setI 0xFFD) (State.reset.setI 0xFFD).i.toNat 3 ∧ InRange wrapEdge 0xFFFF 3 ∧
    (State.reset.setI 0xFFE).config.addrPolicy = .fault ∧ 0x1000 ≤ (State.reset.setI 0xFFE).i.toNat + 2 ∧ ¬ Touches 0xFFD 3 0xFFC :=
  ⟨fun _ => by decide, fun h => absurd h (by decide), by decide, by decide, by
    rintro ⟨k, hk, h⟩; simp only [physAddr] at h; omega⟩

theorem witness_Registers : InRange (State.reset.setI 0xFF0) (State.reset.setI 0xFF0).i.toNat (15 + 1) ∧
    InRange (State.reset.setI 0xFFF) (State.reset.setI 0xFFF).i.toNat (0 + 1) ∧
    (State.reset.setI 0xFF1).config.addrPolicy = .fault ∧ 0x1000 ≤ (State.reset.setI 0xFF1).i.toNat + 15 ∧
    0x1000 ≤ (State.reset.setI 0x1000).i.toNat + 0 :=
  ⟨fun _ => by decide, fun _ => by decide, by decide, by decide, by decide⟩

theorem witness_DumpThenLoad : ∃ t u : State, exec (.ldIndVx 15) (rampRegs (State.reset.setI 0xFF0)) = .next t ∧ t.result = .ok ∧
    u.i = (rampRegs (State.reset.setI 0xFF0)).i ∧ u.config = (rampRegs (State.reset.setI 0xFF0)).config ∧
    (∀ a, Touches 0xFF0 16 a → u.byteAt a = t.byteAt a) ∧ u.v ≠ t.v :=
  ⟨_, { ((rampRegs (State.reset.setI 0xFF0)).writeBytes 0xFF0 (rampRegs State.reset).v.toList) with v := State.reset.v }, rfl,
    by decide, by decide, by decide, fun _ _ => rfl, by decide⟩

theorem witness_Draw : ((0 : Rows) = 0 ∨ InRange (State.reset.setI 0xFFFF) 0xFFFF 0) ∧ InRange (State.reset.setI 0xFFF) 0xFFF 1 ∧
    (State.reset.setI 0xFFF).config.addrPolicy = .fault ∧ 0 < (2 : Rows).val ∧ 0x1000 ≤ (State.reset.setI 0xFFF).i.toNat + (2 : Rows).val - 1 ∧
    Lands (State.reset.setI 0) 0 0 1 0 0 :=
  ⟨.inl rfl, fun _ => by decide, by decide, by decide, by decide, 0, 0, by decide, by decide, by decide, by decide, by decide⟩

/-- Glyph 0 at the origin, drawn on a display that is lit there, and then drawn again. -/
theorem witness_DrawTwice : ∃ t u : State, exec (.drwVxVyN 0 1 5) (State.reset.setDisp (oneLit 0 0)) = .next t ∧ t.result = .ok ∧ u.disp = t.disp ∧
    u.v[(0 : RegIx)] = State.reset.v[(0 : RegIx)] ∧ u.v[(1 : RegIx)] = State.reset.v[(1 : RegIx)] ∧ u.i = State.reset.i ∧
    u.config = State.reset.config ∧ ∀ a, Touches 0 5 a → u.byteAt a = State.reset.byteAt a :=
  ⟨_, State.reset.setDisp (plotSprite (oneLit 0 0) 0 0 (State.reset.readBytes 0 5)).disp, rfl, by decide, rfl, rfl, rfl, rfl, rfl, fun _ _ => rfl⟩

theorem witness_SkipsOnAKey : (withRegs [(0, 15)]).v[(0 : RegIx)].toNat < 16 ∧ 15 < (withRegs [(0, 16)]).v[(0 : RegIx)].toNat := by decide

theorem witness_KeyWait : keys39.mode = .awaitingKey 5 ∧ keys39.keys[(3 : RegIx)] = true ∧ (∀ j : RegIx, j < 3 → keys39.keys[j] = false) ∧
    (State.reset.setMode (.awaitingKey 5)).mode = .awaitingKey 5 ∧ ∀ k : RegIx, (State.reset.setMode (.awaitingKey 5)).keys[k] = false := by decide

theorem witness_ExecutorNeverWritesKeys : (∃ t, step keys39 = .next t) ∧ (transact (.setKey 15 true) State.reset).1.keys ≠ State.reset.keys ∧
    edge.mode = .running ∧ (∀ op x, edge.fetch = .ok op → decode edge.config op ≠ .ok (.skpVx x) ∧ decode edge.config op ≠ .ok (.sknpVx x)) ∧
    ∃ t, step edge = .next t :=
  ⟨⟨_, rfl⟩, by decide, by decide, fun op x h => by
    have h : Except.ok 0xBFFF = Except.ok op := h
    cases h; exact ⟨by revert x; decide, by revert x; decide⟩, ⟨_, rfl⟩⟩

theorem witness_KeysAreSet : 16 ≤ 16 ∧ (15 : RegIx) ≠ 14 := by decide

/-- The last byte of memory, changed by each of the writers: the two instructions, their steps, load (the last byte of the program area and,
of a short ROM, the first) and reset. -/
theorem witness_OnlyTheStores : next (exec (.ldBVx 0) ((withRegs [(0, 255)]).setI 0xFFD)) (fun t => t.byteAt 0xFFF != State.reset.byteAt 0xFFF) = true ∧
    next (exec (.ldIndVx 0) ((withRegs [(0, 255)]).setI 0xFFF)) (fun t => t.byteAt 0xFFF != State.reset.byteAt 0xFFF) = true ∧
    (transact .step (((withRegs [(0, 255)]).setI 0xFFD).withFetchWord 16 0xF033)).1.byteAt 0xFFF ≠ 0 ∧
    (transact .step (((withRegs [(0, 255)]).setI 0xFFF).withFetchWord 16 0xF055)).1.byteAt 0xFFF ≠ 0 ∧
    (transact (.load [7]) State.reset).1.byteAt 0x200 ≠ State.reset.byteAt 0x200 ∧
    (transact .reset edge).1.byteAt 0xFFF ≠ edge.byteAt 0xFFF := by decide

theorem witness_OnlyDrawAndClear : (∃ t, step (State.reset.withFetchWord 16 0xD001) = .next t ∧ t.disp ≠ State.reset.disp) ∧
    ∃ t, step ((State.reset.setDisp (oneLit 3 4)).withFetchWord 16 0x00E0) = .next t ∧ t.disp ≠ oneLit 3 4 :=
  ⟨⟨_, rfl, fun h => absurd (congrArg (fun d => pixel d 0 0) h) (by decide)⟩,
   ⟨_, rfl, fun h => absurd (congrArg (fun d => pixel d 3 4) h) (by decide)⟩⟩

theorem witness_OnlyCallWrites : next (exec (.callNnn 0x300) (State.reset.setSp 15)) (fun t => t.stack != State.reset.stack) = true ∧
    Instr.cls ≠ .ret := by decide

/-- VF changed, by each of the instructions the statement names. -/
theorem witness_VF :
    ([.addVxVy 1 1, .subVxVy 2 2, .shrVx 3 0, .subnVxVy 2 2, .shlVx 1 0, .drwVxVyN 2 2 1, .ldVxKk 15 7, .addVxKk 15 7, .ldVxVy 15 1,
      .orVxVy 15 1, .andVxVy 15 3, .xorVxVy 15 15, .ldVxDt 15, .ldVxInd 15].all (fun i =>
        next (exec i (withRegs [(1, 0xFF), (3, 1)] |>.setDisp (oneLit 0 0) |>.setV 15 (if i = .drwVxVyN 2 2 1 ∨ i = .addVxVy 1 1 then 0 else 2)))
          (fun t => t.v[(15 : RegIx)] != (if i = .drwVxVyN 2 2 1 ∨ i = .addVxVy 1 1 then 0 else 2)))) = true := by decide

theorem witness_SpecialState :
    next (exec (.ldINnn 0x123) State.reset) (fun t => t.i != 0) = true ∧ next (exec (.ldDtVx 0) (withRegs [(0, 1)])) (fun t => t.dt != 0) = true ∧
    next (exec (.ldStVx 0) (withRegs [(0, 1)])) (fun t => t.st != 0) = true ∧ next (exec (.callNnn 0) State.reset) (fun t => t.sp != 0) = true ∧
    next (exec (.ldVxK 0) State.reset) (fun t => t.mode != .running) = true ∧
    (transact .step (State.reset.withFetchWord 16 0xA123)).1.i ≠ 0 ∧ (transact .tickTimers (State.reset.setDt 1)).1.dt ≠ 1 ∧
    (transact .tickTimers (State.reset.setSt 1)).1.st ≠ 1 ∧ (transact .step (State.reset.withFetchWord 16 0x2300)).1.sp ≠ 0 ∧
    (transact .step keys39).1.mode ≠ keys39.mode ∧ (transact .reset keys39).1.mode ≠ keys39.mode := by decide

end Sys2Proof.Tests
end

section
/-! SUPPORT. The return stack is written by 2nnn alone and read by 00EE alone (10_state.md R29): every other instruction commutes with
replacing the stack. -/

namespace Sys2Proof.Machine

/-- Apply `f` to the next state of an outcome; a fault or a refusal has none. -/
def mapNext (f : State → State) (o : Host.Outcome State Fault Refusal) : Host.Outcome State Fault Refusal :=
  match o with
  | .next t => .next (f t)
  | .fault r => .fault r
  | .refused r => .refused r

@[simp] theorem mapNext_next (f : State → State) (t : State) : mapNext f (.next t) = .next (f t) := rfl

variable (s : State) (k : Vector Word 16)

/-! ### Operations that commute with replacing the stack -/

@[simp] theorem State.setStack_self : s.setStack s.stack = s := rfl

@[simp] theorem State.setStack_keyState (b : Byte) : (s.setStack k).keyState b = s.keyState b := rfl

@[simp] theorem State.setStack_firstOutOfRange (base len : Nat) :
    (s.setStack k).firstOutOfRange base len = s.firstOutOfRange base len := rfl

theorem State.setStack_skipIf (taken : Bool) : (s.setStack k).skipIf taken = (s.skipIf taken).setStack k := by
  cases taken <;> rfl

theorem State.setStack_writeBytes (base : Nat) (bytes : List Byte) :
    (s.setStack k).writeBytes base bytes = (s.writeBytes base bytes).setStack k := by
  induction bytes generalizing s base with
  | nil => rfl
  | cons b rest ih => exact ih (s.memWrite base b) (base + 1)

/-- The range check looks at no stack entry, and the address fault changes none. -/
theorem withRange_setStack {base len : Nat} {u u' : State} (h : u' = u.setStack k) :
    withRange (s.setStack k) base len (done u') = mapNext (·.setStack k) (withRange s base len (done u)) := by
  subst h
  unfold withRange
  rw [State.setStack_firstOutOfRange]
  cases s.firstOutOfRange base len <;> rfl

/-! ### The instructions -/

/-- Every instruction but 2nnn and 00EE commutes with replacing the stack: it neither reads nor writes an entry. -/
theorem exec_setStack (i : Instr) (hcall : ∀ nnn, i ≠ .callNnn nnn) (hret : i ≠ .ret) :
    exec i (s.setStack k) = mapNext (·.setStack k) (exec i s) := by
  cases i
  case callNnn nnn => exact absurd rfl (hcall nnn)
  case ret => exact absurd rfl hret
  case seVxKk x y | sneVxKk x y | seVxVy x y | sneVxVy x y => exact congrArg done (s.setStack_skipIf k _)
  case skpVx x | sknpVx x =>
    simp only [exec, execSkpVx, execSknpVx, State.reg_eq, State.setStack_v, State.setStack_keyState]
    cases s.keyState s.v[x] with
    | none => rfl
    | some down => exact congrArg done (s.setStack_skipIf k _)
  case drwVxVyN x y n => exact withRange_setStack s k rfl
  case ldBVx x | ldIndVx x => exact withRange_setStack s k (s.setStack_writeBytes k _ _)
  case ldVxInd x => exact withRange_setStack s k rfl
  all_goals rfl

/-- With another stack, every instruction but 2nnn and 00EE ends in the same state but for that stack. -/
theorem exec_setStack_of_next {i : Instr} {t : State} (hcall : ∀ nnn, i ≠ .callNnn nnn) (hret : i ≠ .ret)
    (h : exec i s = .next t) : exec i (s.setStack k) = .next (t.setStack k) := by
  rw [exec_setStack s k i hcall hret, h, mapNext_next]

/-- 2nnn decides by SP alone and writes by PC and SP alone: with other stack entries all but the stack ends the same. -/
theorem exec_callNnn_setStack {nnn : Addr} {t : State} (h : exec (.callNnn nnn) s = .next t) :
    ∃ t', exec (.callNnn nnn) (s.setStack k) = .next t' ∧ t'.setStack t.stack = t := by
  simp only [exec, execCallNnn] at h ⊢
  by_cases hsp : s.sp.val < 16
  · rw [s.push_of_lt _ hsp] at h
    rw [(s.setStack k).push_of_lt _ hsp]
    cases h
    exact ⟨_, rfl, rfl⟩
  · have hfull : s.sp = 16 := Fin.ext (by have := s.sp.isLt; show s.sp.val = 16; omega)
    rw [(s.push_eq_none _).2 hfull] at h
    rw [((s.setStack k).push_eq_none _).2 hfull]
    cases h
    exact ⟨_, rfl, rfl⟩

/-- A return leaves every entry as it was, the one it pops included (R30, decision D15). -/
theorem exec_ret_stack {t : State} (h : exec .ret s = .next t) : t.stack = s.stack := by
  simp only [exec, execRet] at h
  by_cases hsp : 0 < s.sp.val
  · rw [s.pop_of_pos hsp] at h
    cases h
    rfl
  · rw [s.pop_eq_none.2 (Fin.ext (Nat.eq_zero_of_not_pos hsp))] at h
    cases h
    rfl

/-- Only 2nnn writes the stack. Any other instruction but 00EE does the same with the stack replaced by itself, so its next state is its
own next state with that stack. -/
theorem exec_stack {i : Instr} {t : State} (hcall : ∀ nnn, i ≠ .callNnn nnn) (h : exec i s = .next t) : t.stack = s.stack := by
  by_cases hret : i = .ret
  · subst hret
    exact exec_ret_stack s h
  · have hsame := exec_setStack_of_next s s.stack hcall hret h
    rw [State.setStack_self, h] at hsame
    injection hsame with ht
    rw [ht, State.setStack_stack]

/-- Settles O58: 2nnn by its own rule, 00EE keeps the entries, and every other instruction commutes with replacing the stack. -/
theorem onlyCallWritesAndReturnReadsTheStack : Obligations.OnlyCallWritesAndReturnReadsTheStack := by
  intro i s t h
  by_cases hcall : ∃ nnn, i = .callNnn nnn
  · obtain ⟨nnn, rfl⟩ := hcall
    exact ⟨fun _ => ⟨nnn, rfl⟩, fun _ k => exec_callNnn_setStack s k h⟩
  · have hother : ∀ nnn, i ≠ .callNnn nnn := fun nnn hi => hcall ⟨nnn, hi⟩
    refine ⟨fun hne => absurd (exec_stack s hother h) hne, fun hret k => ?_⟩
    exact ⟨t.setStack k, exec_setStack_of_next s k hother hret h, rfl⟩

end Sys2Proof.Machine
end

section
/-! SUPPORT. The word a fetch reads, in the bytes of memory (20_memory.md R53, 40_step.md R101). -/

namespace Sys2Proof.Machine

variable (s : State)

/-- Below 0x1000 the address policy plays no part: a read is of the byte itself. -/
theorem State.memRead_of_lt {a : Nat} (h : a < 4096) : s.memRead a = s.byteAt a := by
  rw [State.memRead, physAddr_of_lt h]

/-- A fetch whose two bytes lie in range reads the byte at PC above the byte after it. -/
theorem State.fetch_toNat_of_inRange (h : Safety.InRange s s.pc.toNat 2) :
    ∃ op, s.fetch = .ok op ∧ op.toNat = (s.memRead s.pc.toNat).toNat * 256 + (s.memRead (s.pc.toNat + 1)).toNat :=
  ⟨_, s.fetch_of_inRange h, wordOfBytes_toNat _ _⟩

/-- Settles O13: both bytes lie below 0x1000, so the fetch reads them, and neither address wraps. -/
theorem fetchIsBigEndian : Obligations.FetchIsBigEndian := by
  intro s hpc
  have hrange : Safety.InRange s s.pc.toNat 2 := fun _ => hpc
  have hfetch := s.fetch_toNat_of_inRange hrange
  rwa [s.memRead_of_lt (Nat.lt_of_succ_lt hpc), s.memRead_of_lt hpc] at hfetch

end Sys2Proof.Machine
end

section
/-! SUPPORT. The step over a word that decodes to no instruction (40_step.md R107). -/

namespace Sys2Proof.Machine

open Sys2Proof.Safety

variable (s : State)

/-- The branch of `step` in which the fetched word is unknown. -/
theorem step_of_decode_error {op : Word} {e : Reject} (hm : s.mode = .running) (hf : s.fetch = .ok op)
    (hd : decode s.config op = .error e) : step s = unknownOpcode op s.advancePc := by
  simp only [step, hm, hf, hd]

/-- The fetch's advance moves PC, and recording a failure then changes nothing but the model's record. -/
theorem frame_advancePc_recordFailure (r : Result) : Frame [.pc, .failure] s (s.advancePc.recordFailure r) :=
  (frame_advancePc s).trans (frame_recordFailure s.advancePc r)

/-- Settles O16: the next state is the fetch's advance with the unknown opcode recorded, and each of the two updates has its frame. -/
theorem unknownWordIsANoOp : Obligations.UnknownWordIsANoOp := by
  intro s op e hm hf hd
  have hstep : step s = .next (s.advancePc.recordFailure (.unknownOpcode op)) :=
    (step_of_decode_error s hm hf hd).trans ((unknownOpcode_eq_next _ _ op).2 rfl)
  exact ⟨_, hstep, State.recordFailure_result _ _, State.advancePc_pc s, frame_advancePc_recordFailure s _⟩

end Sys2Proof.Machine
end

section
/-! SUPPORT. The jump, the call and the skips (41_flow.md R121-R126): how their words decode, one rule per outcome of the executed instruction,
and the next state of a skip. -/

namespace Sys2Proof.Machine

open Sys2Proof.Safety

/-! ### Their words (30_encoding.md R72, R74) -/

section
variable (c : Config) (nnn : Addr) (x y : RegIx) (kk : Byte)

theorem decode_jpNnn : decode c (formatFA 0x1 nnn) = .ok (.jpNnn nnn) := by
  simp [decode]

theorem decode_callNnn : decode c (formatFA 0x2 nnn) = .ok (.callNnn nnn) := by
  simp [decode]

theorem decode_seVxKk : decode c (formatFK 0x3 x kk) = .ok (.seVxKk x kk) := by
  simp [decode]

theorem decode_sneVxKk : decode c (formatFK 0x4 x kk) = .ok (.sneVxKk x kk) := by
  simp [decode]

theorem fieldN_formatFR_eq_zero (o f : BitVec 4) : fieldN (formatFR o x y f) = 0 ↔ f = 0 := by
  rw [fieldN_formatFR, ← BitVec.toFin_inj]
  rfl

/-- Family 5 has the one selector 0. -/
theorem decode_family5 (f : BitVec 4) : decode c (formatFR 0x5 x y f) =
    if f = 0 then .ok (.seVxVy x y) else .error (.unknownOpcode (formatFR 0x5 x y f)) := by
  simp [decode, fieldN_formatFR_eq_zero, -fieldN_formatFR]

/-- Family 9 has the one selector 0. -/
theorem decode_family9 (f : BitVec 4) : decode c (formatFR 0x9 x y f) =
    if f = 0 then .ok (.sneVxVy x y) else .error (.unknownOpcode (formatFR 0x9 x y f)) := by
  simp [decode, fieldN_formatFR_eq_zero, -fieldN_formatFR]

end

/-! ### Their outcomes -/

variable (s : State)

theorem exec_jpNnn (nnn : Addr) : exec (.jpNnn nnn) s = done (s.setPc (zextAddr nnn)) := rfl

/-- A call with an entry free pushes the advanced PC and jumps. -/
theorem exec_callNnn_of_lt (nnn : Addr) (h : s.sp.val < 16) : exec (.callNnn nnn) s =
    done (((s.setStack (s.stack.set s.sp.val s.pc)).setSp ⟨s.sp.val + 1, by omega⟩).setPc (zextAddr nnn)) := by
  simp only [exec, execCallNnn, s.push_of_lt s.pc h]

/-- A call with 16 entries live raises the overflow and does nothing else. -/
theorem exec_callNnn_of_full (nnn : Addr) (h : s.sp = 16) : exec (.callNnn nnn) s = raise .stackOverflow s := by
  simp only [exec, execCallNnn, (s.push_eq_none s.pc).2 h]

theorem exec_seVxKk (x : RegIx) (kk : Byte) : exec (.seVxKk x kk) s = done (s.skipIf (s.v[x] == kk)) := rfl

theorem exec_sneVxKk (x : RegIx) (kk : Byte) : exec (.sneVxKk x kk) s = done (s.skipIf (s.v[x] != kk)) := rfl

theorem exec_seVxVy (x y : RegIx) : exec (.seVxVy x y) s = done (s.skipIf (s.v[x] == s.v[y])) := rfl

theorem exec_sneVxVy (x y : RegIx) : exec (.sneVxVy x y) s = done (s.skipIf (s.v[x] != s.v[y])) := rfl

/-- A skip taken adds 2 to PC modulo 65536 (41_flow.md R128). -/
theorem State.skipIf_pc_toNat (taken : Bool) :
    (s.skipIf taken).pc.toNat = if taken then (s.pc.toNat + 2) % 65536 else s.pc.toNat := by
  cases taken <;> simp [BitVec.toNat_add]

/-- An instruction that ends in a skip on the condition `P` completes, and changes PC alone. -/
theorem skip_completes {i : Instr} {taken : Bool} {P : Prop} [Decidable P] (hi : exec i s = done (s.skipIf taken))
    (hP : taken = true ↔ P) : ∃ t, exec i s = .next t ∧ t.result = .ok ∧
      t.pc.toNat = (if P then (s.pc.toNat + 2) % 65536 else s.pc.toNat) ∧ Frame [.pc] s t := by
  refine ⟨_, hi, State.report_result _ _, ?_, (frame_skipIf s taken).done rfl⟩
  rw [State.report_pc, State.skipIf_pc_toNat]
  exact if_congr hP rfl rfl

/-- A completed call changes PC, SP and the stack alone. -/
theorem frame_call (w target : Word) (n : Fin 17) (j : Nat) (hj : j < 16) :
    Frame [.pc, .sp, .stack] s (((s.setStack (s.stack.set j w)).setSp n).setPc target) :=
  (((frame_setStack s _).trans (frame_setSp _ n)).trans (frame_setPc _ target)).mono (by simp)

/-! ### The statements -/

/-- Settles O23: the word by the fields of format FA, and the jump is one write of PC. -/
theorem jumpSetsPc : Obligations.JumpSetsPc := by
  intro nnn s
  exact ⟨fun c => decode_jpNnn c nnn, _, exec_jpNnn s nnn, rfl, zextAddr_toNat nnn, (frame_setPc s _).done rfl⟩

/-- Settles O24: with an entry free the push writes entry SP alone, and at SP = 16 there is no push. -/
theorem callPushesTheReturnAddress : Obligations.CallPushesTheReturnAddress := by
  intro nnn s
  refine ⟨fun c => decode_callNnn c nnn, fun hsp => ?_, fun hfull => ?_⟩
  · have htop : (s.stack.set s.sp.val s.pc)[s.sp.val] = s.pc := Vector.getElem_set_self hsp
    have hrest (j : Fin 16) (hj : j.val ≠ s.sp.val) : (s.stack.set s.sp.val s.pc)[j] = s.stack[j] :=
      Vector.getElem_set_ne hsp j.isLt hj.symm
    exact ⟨_, exec_callNnn_of_lt s nnn hsp, rfl, zextAddr_toNat nnn, rfl, htop, hrest, (frame_call s _ _ _ _ hsp).done rfl⟩
  · exact ⟨_, exec_callNnn_of_full s nnn hfull, rfl, frame_recordFailure s _⟩

/-- Settles O25: both words by the fields of format FK, and both instructions are skips on the comparison of Vx with kk. -/
theorem skipsOnAnImmediate : Obligations.SkipsOnAnImmediate := by
  intro x kk s
  exact ⟨fun c => ⟨decode_seVxKk c x kk, decode_sneVxKk c x kk⟩,
    skip_completes s (exec_seVxKk s x kk) beq_iff_eq, skip_completes s (exec_sneVxKk s x kk) bne_iff_ne⟩

/-- Settles O26: families 5 and 9 have the one selector 0, and both instructions are skips on the comparison of Vx with Vy. -/
theorem skipsOnTwoRegisters : Obligations.SkipsOnTwoRegisters := by
  intro x y s
  refine ⟨fun c => ⟨?_, ?_⟩, fun c f hf => ⟨?_, ?_⟩,
    skip_completes s (exec_seVxVy s x y) beq_iff_eq, skip_completes s (exec_sneVxVy s x y) bne_iff_ne⟩
  · exact (decode_family5 c x y 0).trans (if_pos rfl)
  · exact (decode_family9 c x y 0).trans (if_pos rfl)
  · exact (decode_family5 c x y f).trans (if_neg hf)
  · exact (decode_family9 c x y f).trans (if_neg hf)

end Sys2Proof.Machine
end

section
/-! SUPPORT. The instructions with an immediate byte that write Vx alone (42_alu.md R140, R141): how their words decode, what they do, and
the next state of an instruction that ends in one register write. -/

namespace Sys2Proof.Machine

open Sys2Proof.Safety

theorem decode_ldVxKk (c : Config) (x : RegIx) (kk : Byte) : decode c (formatFK 0x6 x kk) = .ok (.ldVxKk x kk) := by
  simp [decode]

theorem decode_addVxKk (c : Config) (x : RegIx) (kk : Byte) : decode c (formatFK 0x7 x kk) = .ok (.addVxKk x kk) := by
  simp [decode]

variable (s : State) (x : RegIx)

theorem exec_ldVxKk (kk : Byte) : exec (.ldVxKk x kk) s = done (s.setV x kk) := rfl

theorem exec_addVxKk (kk : Byte) : exec (.addVxKk x kk) s = done (s.setV x (sumByte s.v[x] kk)) := rfl

/-- A register reads back the byte written to it. -/
theorem State.setV_get_self (b : Byte) : (s.setV x b).v[x] = b :=
  (s.setV_get x b x.val x.isLt).trans (if_pos rfl)

/-- An instruction that ends in the one write `V[x] <- b` completes, leaves `b` in Vx, and changes Vx alone: at `x ≠ F` not VF either. -/
theorem setV_completes {i : Instr} {b : Byte} (hi : exec i s = done (s.setV x b)) :
    ∃ t, exec i s = .next t ∧ t.result = .ok ∧ t.v[x] = b ∧ Frame [.v x] s t :=
  ⟨_, hi, State.report_result _ _, s.setV_get_self x b, (frame_setV s x b).done rfl⟩

/-- Settles O29: the word by the fields of format FK, and the instruction is the one write of kk to Vx. -/
theorem loadImmediateSetsVx : Obligations.LoadImmediateSetsVx := by
  intro x kk s
  exact ⟨fun c => decode_ldVxKk c x kk, setV_completes s x (exec_ldVxKk s x kk)⟩

/-- Settles O30: the instruction is the one write of the sum byte to Vx, and that byte is the sum modulo 256. -/
theorem addImmediateWrapsWithNoFlag : Obligations.AddImmediateWrapsWithNoFlag := by
  intro x kk s
  obtain ⟨t, ht, hok, hsum, hframe⟩ := setV_completes s x (exec_addVxKk s x kk)
  have hwrap : t.v[x].toNat = (s.v[x].toNat + kk.toNat) % 256 := by rw [hsum, sumByte_toNat]
  exact ⟨fun c => decode_addVxKk c x kk, t, ht, hok, hwrap, hframe⟩

end Sys2Proof.Machine
end

section
/-! SUPPORT. The instructions that write I alone with no memory access (43_index_memory.md R170, R172): how their words decode, what they do,
and the next state of an instruction that ends in one write of I. -/

namespace Sys2Proof.Machine

open Sys2Proof.Safety

theorem decode_ldINnn (c : Config) (nnn : Addr) : decode c (formatFA 0xA nnn) = .ok (.ldINnn nnn) := by
  simp [decode]

theorem decode_ldFVx (c : Config) (x : RegIx) : decode c (formatFK 0xF x 0x29) = .ok (.ldFVx x) := by
  simp [decode, decodeFamilyF]

variable (s : State)

theorem exec_ldINnn (nnn : Addr) : exec (.ldINnn nnn) s = done (s.setI (zextAddr nnn)) := rfl

theorem exec_ldFVx (x : RegIx) : exec (.ldFVx x) s = done (s.setI (zext16 s.v[x] * 5)) := rfl

/-- Five times a byte is at most 1275, so the 16-bit product does not wrap (43_index_memory.md R172). -/
theorem zext16_mul_five_toNat (b : Byte) : (zext16 b * 5).toNat = b.toNat * 5 := by
  have hfit : b.toNat * 5 < 2 ^ 16 := by omega
  rw [BitVec.toNat_mul, zext16_toNat]
  exact Nat.mod_eq_of_lt hfit

/-- An instruction that ends in the one write `I <- w` completes, leaves `w` in I, and changes I alone. -/
theorem setI_completes {i : Instr} {w : Word} (hi : exec i s = done (s.setI w)) :
    ∃ t, exec i s = .next t ∧ t.result = .ok ∧ t.i = w ∧ Frame [.i] s t :=
  ⟨_, hi, State.report_result _ _, State.setI_i s w, (frame_setI s w).done rfl⟩

/-- Settles O36: the word by the fields of format FA, and the instruction is the one write of nnn, zero-extended, to I. -/
theorem loadIndexSetsI : Obligations.LoadIndexSetsI := by
  intro nnn s
  obtain ⟨t, ht, hok, hi, hframe⟩ := setI_completes s (exec_ldINnn s nnn)
  have hnnn : t.i.toNat = nnn.toNat := by rw [hi, zextAddr_toNat]
  exact ⟨fun c => decode_ldINnn c nnn, t, ht, hok, hnnn, hframe⟩

/-- Settles O38: family F with selector 0x29, and the instruction is the one write to I of a product that fits in 16 bits. -/
theorem fontAddressIsFiveTimesVx : Obligations.FontAddressIsFiveTimesVx := by
  intro x s
  obtain ⟨t, ht, hok, hi, hframe⟩ := setI_completes s (exec_ldFVx s x)
  have hproduct : t.i.toNat = s.v[x].toNat * 5 := by rw [hi, zext16_mul_five_toNat]
  exact ⟨fun c => decode_ldFVx c x, t, ht, hok, hproduct, hframe⟩

end Sys2Proof.Machine
end

section
/-! SUPPORT. 00E0 (44_display.md R190): how its word decodes and what it does. -/

namespace Sys2Proof.Machine

open Sys2Proof.Safety

theorem decode_cls (c : Config) : decode c 0x00E0 = .ok .cls := rfl

variable (s : State)

theorem exec_cls : exec .cls s = done (s.setDisp clearDisplay) := rfl

/-- Settles O43: the whole word matches in family 0, and the instruction is the one write of the clear display, which leaves VF as it was. -/
theorem clearTurnsEveryPixelOff : Obligations.ClearTurnsEveryPixelOff := by
  intro s
  exact ⟨decode_cls, _, exec_cls s, State.report_result _ _, pixel_clearDisplay, (frame_setDisp s clearDisplay).done rfl⟩

end Sys2Proof.Machine
end

section
/-! SUPPORT. The key states are the host's (10_state.md R33, 45_timers_keypad.md R217): no step writes them, and in mode `Running` every
step but that of Ex9E or ExA1 commutes with replacing them. -/

namespace Sys2Proof.Machine

variable (s : State) (k : Vector Bool 16)

/-! ### Operations that commute with replacing the key states -/

@[simp] theorem State.setKeys_self : s.setKeys s.keys = s := rfl

@[simp] theorem State.setKeys_firstOutOfRange (base len : Nat) :
    (s.setKeys k).firstOutOfRange base len = s.firstOutOfRange base len := rfl

@[simp] theorem State.setKeys_fetch : (s.setKeys k).fetch = s.fetch := rfl

@[simp] theorem State.setKeys_advancePc : (s.setKeys k).advancePc = s.advancePc.setKeys k := rfl

theorem State.setKeys_skipIf (taken : Bool) : (s.setKeys k).skipIf taken = (s.skipIf taken).setKeys k := by
  cases taken <;> rfl

theorem State.setKeys_writeBytes (base : Nat) (bytes : List Byte) :
    (s.setKeys k).writeBytes base bytes = (s.writeBytes base bytes).setKeys k := by
  induction bytes generalizing s base with
  | nil => rfl
  | cons b rest ih => exact ih (s.memWrite base b) (base + 1)

@[simp] theorem State.writeBytes_keys (base : Nat) (bytes : List Byte) : (s.writeBytes base bytes).keys = s.keys := by
  rw [State.writeBytes_eq]

/-- The range check looks at no key, and the address fault changes none. -/
theorem withRange_setKeys {base len : Nat} {u u' : State} (h : u' = u.setKeys k) :
    withRange (s.setKeys k) base len (done u') = mapNext (·.setKeys k) (withRange s base len (done u)) := by
  subst h
  unfold withRange
  rw [State.setKeys_firstOutOfRange]
  cases s.firstOutOfRange base len <;> rfl

theorem exec_callNnn_setKeys (nnn : Addr) :
    exec (.callNnn nnn) (s.setKeys k) = mapNext (·.setKeys k) (exec (.callNnn nnn) s) := by
  by_cases hsp : s.sp.val < 16
  · rw [exec_callNnn_of_lt s nnn hsp, exec_callNnn_of_lt (s.setKeys k) nnn hsp]
    rfl
  · have hfull : s.sp = 16 := Fin.ext (Nat.le_antisymm s.sp.is_le (Nat.le_of_not_lt hsp))
    rw [exec_callNnn_of_full s nnn hfull, exec_callNnn_of_full (s.setKeys k) nnn hfull]
    rfl

theorem exec_ret_setKeys : exec .ret (s.setKeys k) = mapNext (·.setKeys k) (exec .ret s) := by
  simp only [exec, execRet]
  by_cases hsp : 0 < s.sp.val
  · rw [s.pop_of_pos hsp, (s.setKeys k).pop_of_pos hsp]
    rfl
  · have hempty : s.sp = 0 := Fin.ext (Nat.eq_zero_of_not_pos hsp)
    rw [s.pop_eq_none.2 hempty, (s.setKeys k).pop_eq_none.2 hempty]
    rfl

/-! ### The instructions -/

/-- Every instruction but Ex9E and ExA1 commutes with replacing the key states: it neither reads nor writes one. -/
theorem exec_setKeys (i : Instr) (hskip : ∀ x, i ≠ .skpVx x ∧ i ≠ .sknpVx x) :
    exec i (s.setKeys k) = mapNext (·.setKeys k) (exec i s) := by
  cases i
  case skpVx x => exact absurd rfl (hskip x).1
  case sknpVx x => exact absurd rfl (hskip x).2
  case callNnn nnn => exact exec_callNnn_setKeys s k nnn
  case ret => exact exec_ret_setKeys s k
  case seVxKk x y | sneVxKk x y | seVxVy x y | sneVxVy x y => exact congrArg done (s.setKeys_skipIf k _)
  case drwVxVyN x y n => exact withRange_setKeys s k rfl
  case ldBVx x | ldIndVx x => exact withRange_setKeys s k (s.setKeys_writeBytes k _ _)
  case ldVxInd x => exact withRange_setKeys s k rfl
  all_goals rfl

/-- A skip on a key reads the key states and writes none: it moves PC, or records the index fault. -/
theorem exec_keySkip_keys {i : Instr} {x : RegIx} {t : State} (hi : i = .skpVx x ∨ i = .sknpVx x) (h : exec i s = .next t) :
    t.keys = s.keys := by
  rcases hi with rfl | rfl
  all_goals
    simp only [exec, execSkpVx, execSknpVx] at h
    split at h
    · rw [(raise_eq_next _ _ _).1 h, State.recordFailure_keys]
    · rw [(done_eq_next _ _).1 h, State.report_keys, State.skipIf_keys]

/-- No instruction writes a key. One that is no skip on a key does the same with the key states replaced by themselves, so its next state
is its own next state with those keys. -/
theorem exec_keys {i : Instr} {t : State} (h : exec i s = .next t) : t.keys = s.keys := by
  by_cases hskip : ∃ x, i = .skpVx x ∨ i = .sknpVx x
  · obtain ⟨x, hi⟩ := hskip
    exact exec_keySkip_keys s hi h
  · have hsame := exec_setKeys s s.keys i fun x => not_or.1 fun hi => hskip ⟨x, hi⟩
    rw [State.setKeys_self, h, mapNext_next] at hsame
    injection hsame with ht
    rw [ht, State.setKeys_keys]

/-! ### The step -/

/-- The poll of the key wait reads the keys and leaves them as they are (R216). -/
theorem keywaitPoll_keys {x : RegIx} {t : State} (h : keywaitPoll x s = .next t) : t.keys = s.keys := by
  rcases keywaitPoll_cases s x with ⟨k, -, -, hp⟩ | ⟨-, hp⟩
  · rw [(done_eq_next _ _).1 (hp.symm.trans h), State.report_keys, State.setMode_keys, State.setV_keys]
  · rw [hp] at h
    cases h
    rfl

theorem step_keys {t : State} (h : step s = .next t) : t.keys = s.keys := by
  rcases step_cases s with ⟨x, -, hs⟩ | ⟨-, a, -, hs⟩ | ⟨-, op, e, -, -, hs⟩ | ⟨-, op, i, -, -, hs⟩ <;> rw [hs] at h
  · exact keywaitPoll_keys s h
  · cases h
  · rw [(unknownOpcode_eq_next _ _ _).1 h, State.recordFailure_keys, State.advancePc_keys]
  · exact exec_keys s.advancePc h

/-- In mode `Running`, a step that runs no skip on a key commutes with replacing the key states. -/
theorem step_setKeys (hm : s.mode = .running)
    (hskip : ∀ op x, s.fetch = .ok op → decode s.config op ≠ .ok (.skpVx x) ∧ decode s.config op ≠ .ok (.sknpVx x)) :
    step (s.setKeys k) = mapNext (·.setKeys k) (step s) := by
  simp only [step, State.setKeys_mode, State.setKeys_fetch, State.setKeys_config, State.setKeys_advancePc, hm]
  cases hf : s.fetch with
  | error a => rfl
  | ok op =>
    cases hd : decode s.config op with
    | error e => simp only [hd]; rfl
    | ok i =>
      simp only [hd]
      exact exec_setKeys s.advancePc k i fun x =>
        ⟨fun hi => (hskip op x hf).1 (hi ▸ hd), fun hi => (hskip op x hf).2 (hi ▸ hd)⟩

/-! ### The host's transactions -/

/-- The step port passes on what the step leaves; the record of a fetch fault holds no key. -/
theorem State.stepPort_keys : s.stepPort.1.keys = s.keys := by
  cases h : step s with
  | next t => rw [s.stepPort_of_next t h]; exact step_keys s h
  | fault r => obtain ⟨a⟩ := r; rw [s.stepPort_of_fault a h, State.recordFailure_keys]
  | refused r => simp only [State.stepPort, h]

@[simp] theorem State.loadPort_keys (rom : List Byte) : (s.loadPort rom).1.keys = s.keys := by
  unfold State.loadPort
  split
  · exact s.writeBytes_keys 0x200 rom
  · rfl

theorem State.resetPort_keys (j : RegIx) : s.resetPort.keys[j] = false := Vector.getElem_replicate j.isLt

/-- A transaction after which the key states differ is one of the three that write them (R217). -/
theorem transact_writes_keys {tr : Transaction} (h : (transact tr s).1.keys ≠ s.keys) :
    tr = .reset ∨ (∃ k b, tr = .setKey k b) ∨ ∃ k, tr = .updateKeys k := by
  cases tr with
  | reset => exact .inl rfl
  | setKey index pressed => exact .inr (.inl ⟨index, pressed, rfl⟩)
  | updateKeys keys => exact .inr (.inr ⟨keys, rfl⟩)
  | load rom => exact absurd (s.loadPort_keys rom) h
  | step => exact absurd s.stepPort_keys h
  | tickTimers | displaySnapshot | soundActive | peek c => exact absurd rfl h

/-- Settles O52: no step writes the keys, three transactions can, reset clears them, and a step that runs no skip on a key commutes with
replacing them. -/
theorem theExecutorNeverWritesKeys : Obligations.TheExecutorNeverWritesKeys := by
  refine ⟨fun s _ => step_keys s, fun _ s => transact_writes_keys s, State.resetPort_keys, ?_⟩
  intro s t keys hm hskip h
  rw [step_setKeys s keys hm hskip, h, mapNext_next]

end Sys2Proof.Machine
end

section
/-! SUPPORT. What an executed instruction reports (60_exceptions.md R230-R234): `Ok`, or one of the faults of RaisesFor with nothing written
but the record of it. Which instructions the two stack faults come from, and that no step reports `ProgramTooLarge`. -/

namespace Sys2Proof.Machine

open Sys2Proof.Safety

variable (s : State)

/-! ### What RaisesFor says of a given result -/

theorem raisesFor_stackOverflow (i : Instr) : RaisesFor i s .stackOverflow ↔ (∃ nnn, i = .callNnn nnn) ∧ s.sp = 16 := by
  simp [RaisesFor]

theorem raisesFor_stackUnderflow (i : Instr) : RaisesFor i s .stackUnderflow ↔ i = .ret ∧ s.sp = 0 := by
  simp [RaisesFor]

theorem not_raisesFor_programTooLarge (i : Instr) : ¬ RaisesFor i s .programTooLarge := by
  simp [RaisesFor]

/-! ### The result of an instruction -/

theorem exec_ret_of_empty (h : s.sp = 0) : exec .ret s = raise .stackUnderflow s := by
  simp only [exec, execRet, s.pop_eq_none.2 h]

/-- The next state of an instruction reports `Ok`, or it is the state before with the fault recorded, for a stated reason. -/
theorem exec_result_cases {i : Instr} {t : State} (h : exec i s = .next t) :
    t.result = .ok ∨ (RaisesFor i s t.result ∧ t = s.recordFailure t.result) := by
  rcases exec_cases s i with ⟨u, hu⟩ | ⟨r, hr, hraises⟩
  · obtain rfl := (done_eq_next _ _).1 (hu.symm.trans h)
    exact .inl rfl
  · obtain rfl := (raise_eq_next _ _ _).1 (hr.symm.trans h)
    exact .inr ⟨hraises, rfl⟩

/-- An instruction that does not report `Ok` has raised a fault. -/
theorem exec_raises {i : Instr} {t : State} (h : exec i s = .next t) (hr : t.result ≠ .ok) :
    RaisesFor i s t.result ∧ t = s.recordFailure t.result :=
  (exec_result_cases s h).resolve_left hr

theorem exec_stackOverflow_iff {i : Instr} {t : State} (h : exec i s = .next t) :
    t.result = .stackOverflow ↔ (∃ nnn, i = .callNnn nnn) ∧ s.sp = 16 := by
  constructor
  · intro hr
    obtain ⟨hraises, -⟩ := exec_raises s h (by simp [hr])
    exact (raisesFor_stackOverflow s i).1 (hr ▸ hraises)
  · rintro ⟨⟨nnn, rfl⟩, hfull⟩
    rw [exec_callNnn_of_full s nnn hfull] at h
    rw [(raise_eq_next _ _ _).1 h, State.recordFailure_result]

theorem exec_stackUnderflow_iff {i : Instr} {t : State} (h : exec i s = .next t) :
    t.result = .stackUnderflow ↔ i = .ret ∧ s.sp = 0 := by
  constructor
  · intro hr
    obtain ⟨hraises, -⟩ := exec_raises s h (by simp [hr])
    exact (raisesFor_stackUnderflow s i).1 (hr ▸ hraises)
  · rintro ⟨rfl, hempty⟩
    rw [exec_ret_of_empty s hempty] at h
    rw [(raise_eq_next _ _ _).1 h, State.recordFailure_result]

/-- An instruction that does not report `Ok` writes nothing: the model's record of the failure alone changes (R237). -/
theorem frame_exec_of_result_ne_ok {i : Instr} {t : State} (h : exec i s = .next t) (hr : t.result ≠ .ok) :
    Frame [.failure] s t := by
  obtain ⟨-, ht⟩ := exec_raises s h hr
  rw [ht]
  exact frame_recordFailure s _

/-- Settles O19: a stack fault is raised for the reason RaisesFor states and by the recorded failure alone, and at that SP the instruction
does raise it. -/
theorem stackFaultsAreRaisedExactlyWhenStated : Obligations.StackFaultsAreRaisedExactlyWhenStated := by
  intro i s t h
  refine ⟨exec_stackOverflow_iff s h, exec_stackUnderflow_iff s h, fun hr => frame_exec_of_result_ne_ok s h ?_⟩
  rcases hr with hr | hr <;> simp [hr]

/-! ### `ProgramTooLarge` is no result of a step (R236) -/

theorem exec_result_ne_programTooLarge {i : Instr} {t : State} (h : exec i s = .next t) : t.result ≠ .programTooLarge := by
  intro hr
  obtain ⟨hraises, -⟩ := exec_raises s h (by simp [hr])
  exact not_raisesFor_programTooLarge s i (hr ▸ hraises)

/-- A step in the key wait reports `Ok` or `Waiting`. -/
theorem keywaitPoll_result {x : RegIx} {t : State} (h : keywaitPoll x s = .next t) : t.result = .ok ∨ t.result = .waiting := by
  rcases keywaitPoll_cases s x with ⟨k, -, -, hp⟩ | ⟨-, hp⟩
  · obtain rfl := (done_eq_next _ _).1 (hp.symm.trans h)
    exact .inl rfl
  · cases hp.symm.trans h
    exact .inr rfl

theorem step_result_ne_programTooLarge {t : State} (h : step s = .next t) : t.result ≠ .programTooLarge := by
  rcases step_cases s with ⟨x, -, hs⟩ | ⟨-, a, -, hs⟩ | ⟨-, op, e, -, -, hs⟩ | ⟨-, op, i, -, -, hs⟩ <;> rw [hs] at h
  · rcases keywaitPoll_result s h with hr | hr <;> simp [hr]
  · cases h
  · simp [(unknownOpcode_eq_next _ _ _).1 h]
  · exact exec_result_ne_programTooLarge s.advancePc h

end Sys2Proof.Machine
end

section
/-! SUPPORT. The answers of the host's ports that write nothing (60_exceptions.md R236, R243, R244, R247): the rejected load, the sound, and
the pixel peek names. -/

namespace Sys2Proof.Machine

variable (s : State)

/-- `load` of at most 3584 bytes copies them and answers `Ok` with their number (R262). -/
theorem State.loadPort_of_le {rom : List Byte} (h : rom.length ≤ 3584) :
    s.loadPort rom = (s.writeBytes 0x200 rom, rom.length, .ok) := if_pos h

/-- `load` of more than 3584 bytes is rejected (R263). -/
theorem State.loadPort_of_gt {rom : List Byte} (h : 3584 < rom.length) : s.loadPort rom = (s, 0, .programTooLarge) :=
  if_neg (Nat.not_le.2 h)

theorem State.loadPort_programTooLarge_iff (rom : List Byte) :
    (s.loadPort rom).2.2 = .programTooLarge ↔ 3584 < rom.length := by
  rcases Nat.lt_or_ge 3584 rom.length with hlarge | hfits
  · simp [s.loadPort_of_gt hlarge, hlarge]
  · simp [s.loadPort_of_le hfits, hfits]

/-- Settles O8: a load answers by the length of its ROM alone, and in each case of a step the result is another one. -/
theorem programTooLargeIsALoadResultOnly : Obligations.ProgramTooLargeIsALoadResultOnly := by
  refine ⟨fun s rom => ⟨s.loadPort_programTooLarge_iff rom, fun hlarge => ?_⟩, fun s _ => step_result_ne_programTooLarge s⟩
  rw [s.loadPort_of_gt hlarge]

theorem State.soundActivePort_iff : s.soundActivePort = true ↔ 0 < s.st.toNat := decide_eq_true_iff

/-- A row below 32 and a column below 64 do not wrap. -/
theorem getElem_eq_pixel (d : Display) (r : Fin 32) (c : Fin 64) : d[r][c] = pixel d r c := by
  simp [pixel, Nat.mod_eq_of_lt r.isLt, Nat.mod_eq_of_lt c.isLt]

theorem State.peekPort_disp (r : Fin 32) (c : Fin 64) : s.peekPort (.disp r c) = .bit (pixel s.disp r c) :=
  congrArg PeekValue.bit (getElem_eq_pixel s.disp r c)

/-- Settles O54: each of the three transactions answers with its port's value beside the state it was given; for a pixel that value is the
one at its row and column, which do not wrap. -/
theorem snapshotAndSoundReadOnly : Obligations.SnapshotAndSoundReadOnly := by
  intro s
  have hpixel (r : Fin 32) (c : Fin 64) : transact (.peek (.disp r c)) s = (s, .peeked (.bit (pixel s.disp r c))) :=
    congrArg (fun v => (s, Reply.peeked v)) (s.peekPort_disp r c)
  exact ⟨rfl, ⟨_, rfl, s.soundActivePort_iff⟩, fun _ => rfl, fun _ => rfl, rfl, rfl, fun _ => rfl, rfl, rfl, rfl, hpixel,
    fun _ => rfl, rfl⟩

end Sys2Proof.Machine
end

section
/-! SUPPORT. Decoding and encoding are inverse to each other (30_encoding.md R72, R74, R77). -/

namespace Sys2Proof.Machine

/-! ### From an instruction to its word and back -/

/-- Every operand field of a format reads back, and the selector picks the row. -/
theorem decode_encode (c : Config) (i : Instr) (hwf : WellFormed c i = true) : decode c (encode i) = .ok i := by
  cases i
  case cls | ret => rfl
  case jpNnn | callNnn | ldINnn | jpV0Nnn => simp [encode, decode]
  case seVxKk | sneVxKk | ldVxKk | addVxKk | rndVxKk => simp [encode, decode]
  case seVxVy x y => exact decode_family5 c x y 0
  case sneVxVy x y => exact decode_family9 c x y 0
  case ldVxVy | orVxVy | andVxVy | xorVxVy | addVxVy | subVxVy | shrVx | subnVxVy | shlVx =>
    simp [encode, decode, decodeFamily8]
  case drwVxVyN => simp [encode, decode]
  case skpVx | sknpVx => simp [encode, decode, decodeFamilyE]
  case ldVxK x =>
    have hkeywait : c.keywaitImpl = true := hwf
    simp [encode, decode, decodeFamilyF, hkeywait]
  case ldVxDt | ldDtVx | ldStVx | addIVx | ldFVx | ldBVx | ldIndVx | ldVxInd => simp [encode, decode, decodeFamilyF]

/-- Settles O2: each format's fields read back, whatever the operands. -/
theorem decodeOfEncodeIsTheInstruction : Obligations.DecodeOfEncodeIsTheInstruction := decode_encode

/-! ### From a word to its instruction and back -/

variable {op : Word}

theorem formatFA_fieldNnn {o : BitVec 4} (ho : fieldO op = o) : formatFA o (fieldNnn op) = op := by
  rw [← ho]; exact (eq_formatFA op).symm

theorem formatFK_fields {o : BitVec 4} (ho : fieldO op = o) : formatFK o (fieldX op) (fieldKk op) = op := by
  rw [← ho]; exact (eq_formatFK op).symm

theorem formatFK_selector {o : BitVec 4} {kk : Byte} (ho : fieldO op = o) (hk : fieldKk op = kk) :
    formatFK o (fieldX op) kk = op := by
  rw [← hk]; exact formatFK_fields ho

theorem formatFR_fields {o : BitVec 4} (ho : fieldO op = o) :
    formatFR o (fieldX op) (fieldY op) (nibble (fieldN op)) = op := by
  rw [← ho]; exact (eq_formatFR op).symm

theorem formatFR_selector {o f : BitVec 4} (ho : fieldO op = o) (hn : nibble (fieldN op) = f) :
    formatFR o (fieldX op) (fieldY op) f = op := by
  rw [← hn]; exact formatFR_fields ho

variable (c : Config) {i : Instr}

theorem encode_of_decodeFamily0 (h : decodeFamily0 op = .ok i) : WellFormed c i = true ∧ encode i = op := by
  unfold decodeFamily0 at h
  split at h
  · next hop => cases h; exact ⟨rfl, hop.symm⟩
  split at h
  · next hop => cases h; exact ⟨rfl, hop.symm⟩
  · cases h

theorem encode_of_decodeFamily8 (ho : fieldO op = 0x8) (h : decodeFamily8 op = .ok i) :
    WellFormed c i = true ∧ encode i = op := by
  unfold decodeFamily8 at h
  split at h <;> cases h
  all_goals
    next hn => exact ⟨rfl, formatFR_selector ho (BitVec.eq_of_toNat_eq hn)⟩

theorem encode_of_decodeFamilyE (ho : fieldO op = 0xE) (h : decodeFamilyE op = .ok i) :
    WellFormed c i = true ∧ encode i = op := by
  unfold decodeFamilyE at h
  split at h <;> cases h
  all_goals
    next hk => exact ⟨rfl, formatFK_selector ho (BitVec.eq_of_toNat_eq hk)⟩

theorem encode_of_decodeFamilyF (ho : fieldO op = 0xF) (h : decodeFamilyF c op = .ok i) :
    WellFormed c i = true ∧ encode i = op := by
  unfold decodeFamilyF at h
  split at h
  case h_2 hk =>
    split at h <;> cases h
    next hkeywait => exact ⟨hkeywait, formatFK_selector ho (BitVec.eq_of_toNat_eq hk)⟩
  all_goals cases h
  all_goals
    next hk => exact ⟨rfl, formatFK_selector ho (BitVec.eq_of_toNat_eq hk)⟩

theorem encode_of_decode (h : decode c op = .ok i) : WellFormed c i = true ∧ encode i = op := by
  unfold decode at h
  split at h
  case h_1 => exact encode_of_decodeFamily0 c h
  case h_2 ho | h_3 ho | h_11 ho | h_12 ho => cases h; exact ⟨rfl, formatFA_fieldNnn (BitVec.eq_of_toNat_eq ho)⟩
  case h_4 ho | h_5 ho | h_7 ho | h_8 ho | h_13 ho => cases h; exact ⟨rfl, formatFK_fields (BitVec.eq_of_toNat_eq ho)⟩
  case h_6 ho | h_10 ho =>
    split at h <;> cases h
    next hn => exact ⟨rfl, formatFR_selector (BitVec.eq_of_toNat_eq ho) (congrArg nibble hn)⟩
  case h_9 ho => exact encode_of_decodeFamily8 c (BitVec.eq_of_toNat_eq ho) h
  case h_14 ho => cases h; exact ⟨rfl, formatFR_fields (BitVec.eq_of_toNat_eq ho)⟩
  case h_15 ho => exact encode_of_decodeFamilyE c (BitVec.eq_of_toNat_eq ho) h
  case h_16 ho => exact encode_of_decodeFamilyF c (BitVec.eq_of_toNat_eq ho) h
  case h_17 => cases h

/-- Settles O3: in each row the family and the selector are the ones its encoding writes, and the operands are the remaining fields. -/
theorem encodeOfDecodeIsTheWord : Obligations.EncodeOfDecodeIsTheWord := by
  intro c op i h
  exact encode_of_decode c h

/-- A word that is no instruction is reported as it is (R76). -/
theorem decode_error_eq {e : Reject} (h : decode c op = .error e) : e = .unknownOpcode op := by
  unfold decode decodeFamily0 decodeFamily8 decodeFamilyE decodeFamilyF at h
  repeat' split at h
  all_goals cases h
  all_goals rfl

/-! ### The opcode table (R74, R75) -/

theorem eq_of_rowMatches {r : TableRow} (h : rowMatches r op = true) : op &&& r.mask = r.pattern := by
  simpa [rowMatches] using h

/-- A word that matches a row which fixes the family alone is of that family. -/
theorem fieldO_of_and_family {o : BitVec 4} (h : op &&& 0xF000 = formatFA o 0) : fieldO op = o := by
  rw [eq_formatFA op, formatFA_and] at h
  simpa using congrArg fieldO h

/-- A row that fixes the family and the low byte. -/
theorem fields_of_and_formatFK {o : BitVec 4} {kk : Byte} (h : op &&& 0xF0FF = formatFK o 0 kk) :
    fieldO op = o ∧ fieldKk op = kk := by
  rw [eq_formatFK op, formatFK_and] at h
  exact ⟨by simpa using congrArg fieldO h, by simpa using congrArg fieldKk h⟩

/-- A row that fixes the family and the low nibble. -/
theorem fields_of_and_formatFR {o f : BitVec 4} (h : op &&& 0xF00F = formatFR o 0 0 f) :
    fieldO op = o ∧ nibble (fieldN op) = f := by
  rw [eq_formatFR op, formatFR_and] at h
  exact ⟨by simpa using congrArg fieldO h, by simpa [nibble] using congrArg (fun w => nibble (fieldN w)) h⟩

/-- Every word of the row is the word of an instruction with the row's mnemonic. -/
def RowEncodes (r : TableRow) : Prop :=
  ∀ op, rowMatches r op = true → ∃ i, mnemonicOf i = r.mnemonic ∧ encode i = op

theorem rowEncodes_word {m : String} {w : Word} (i : Instr) (hm : mnemonicOf i = m := by rfl) (hi : encode i = w := by rfl) :
    RowEncodes ⟨m, w, 0xFFFF⟩ := by
  intro op h
  have hw : op &&& BitVec.allOnes 16 = w := eq_of_rowMatches h
  rw [BitVec.and_allOnes] at hw
  exact ⟨i, hm, hi.trans hw.symm⟩

theorem rowEncodes_formatFA {m : String} {p : Word} (o : BitVec 4) (i : Addr → Instr) (hp : p = formatFA o 0 := by rfl)
    (hm : ∀ nnn, mnemonicOf (i nnn) = m := by intros; rfl) (hi : ∀ nnn, encode (i nnn) = formatFA o nnn := by intros; rfl) :
    RowEncodes ⟨m, p, 0xF000⟩ := by
  intro op h
  have ho : fieldO op = o := fieldO_of_and_family ((eq_of_rowMatches h).trans hp)
  exact ⟨i (fieldNnn op), hm _, (hi _).trans (formatFA_fieldNnn ho)⟩

theorem rowEncodes_formatFK {m : String} {p : Word} (o : BitVec 4) (i : RegIx → Byte → Instr) (hp : p = formatFA o 0 := by rfl)
    (hm : ∀ x kk, mnemonicOf (i x kk) = m := by intros; rfl) (hi : ∀ x kk, encode (i x kk) = formatFK o x kk := by intros; rfl) :
    RowEncodes ⟨m, p, 0xF000⟩ := by
  intro op h
  have ho : fieldO op = o := fieldO_of_and_family ((eq_of_rowMatches h).trans hp)
  exact ⟨i (fieldX op) (fieldKk op), hm _ _, (hi _ _).trans (formatFK_fields ho)⟩

theorem rowEncodes_formatFX {m : String} {p : Word} (o : BitVec 4) (kk : Byte) (i : RegIx → Instr) (hp : p = formatFK o 0 kk := by rfl)
    (hm : ∀ x, mnemonicOf (i x) = m := by intros; rfl) (hi : ∀ x, encode (i x) = formatFK o x kk := by intros; rfl) :
    RowEncodes ⟨m, p, 0xF0FF⟩ := by
  intro op h
  obtain ⟨ho, hk⟩ := fields_of_and_formatFK ((eq_of_rowMatches h).trans hp)
  exact ⟨i (fieldX op), hm _, (hi _).trans (formatFK_selector ho hk)⟩

theorem rowEncodes_formatFR {m : String} {p : Word} (o f : BitVec 4) (i : RegIx → RegIx → Instr) (hp : p = formatFR o 0 0 f := by rfl)
    (hm : ∀ x y, mnemonicOf (i x y) = m := by intros; rfl) (hi : ∀ x y, encode (i x y) = formatFR o x y f := by intros; rfl) :
    RowEncodes ⟨m, p, 0xF00F⟩ := by
  intro op h
  obtain ⟨ho, hn⟩ := fields_of_and_formatFR ((eq_of_rowMatches h).trans hp)
  exact ⟨i (fieldX op) (fieldY op), hm _ _, (hi _ _).trans (formatFR_selector ho hn)⟩

theorem rowEncodes_formatFD {m : String} {p : Word} (o : BitVec 4) (i : RegIx → RegIx → Rows → Instr)
    (hp : p = formatFA o 0 := by rfl)
    (hm : ∀ x y n, mnemonicOf (i x y n) = m := by intros; rfl)
    (hi : ∀ x y n, encode (i x y n) = formatFR o x y (nibble n) := by intros; rfl) :
    RowEncodes ⟨m, p, 0xF000⟩ := by
  intro op h
  have ho : fieldO op = o := fieldO_of_and_family ((eq_of_rowMatches h).trans hp)
  exact ⟨i (fieldX op) (fieldY op) (fieldN op), hm _ _ _, (hi _ _ _).trans (formatFR_fields ho)⟩

/-- Row by row: the format the mask leaves free, and the instruction of the row. -/
theorem opcodeTable_encodes : ∀ r ∈ opcodeTable, RowEncodes r := by
  simp only [opcodeTable, List.cons_append, List.nil_append, List.forall_mem_cons]
  exact ⟨rowEncodes_word .cls, rowEncodes_word .ret, rowEncodes_formatFA 0x1 .jpNnn, rowEncodes_formatFA 0x2 .callNnn,
    rowEncodes_formatFK 0x3 .seVxKk, rowEncodes_formatFK 0x4 .sneVxKk, rowEncodes_formatFR 0x5 0x0 .seVxVy,
    rowEncodes_formatFK 0x6 .ldVxKk, rowEncodes_formatFK 0x7 .addVxKk, rowEncodes_formatFR 0x8 0x0 .ldVxVy,
    rowEncodes_formatFR 0x8 0x1 .orVxVy, rowEncodes_formatFR 0x8 0x2 .andVxVy, rowEncodes_formatFR 0x8 0x3 .xorVxVy,
    rowEncodes_formatFR 0x8 0x4 .addVxVy, rowEncodes_formatFR 0x8 0x5 .subVxVy, rowEncodes_formatFR 0x8 0x6 .shrVx,
    rowEncodes_formatFR 0x8 0x7 .subnVxVy, rowEncodes_formatFR 0x8 0xE .shlVx, rowEncodes_formatFR 0x9 0x0 .sneVxVy,
    rowEncodes_formatFA 0xA .ldINnn, rowEncodes_formatFA 0xB .jpV0Nnn, rowEncodes_formatFK 0xC .rndVxKk,
    rowEncodes_formatFD 0xD .drwVxVyN, rowEncodes_formatFX 0xE 0x9E .skpVx, rowEncodes_formatFX 0xE 0xA1 .sknpVx,
    rowEncodes_formatFX 0xF 0x07 .ldVxDt, rowEncodes_formatFX 0xF 0x0A .ldVxK, rowEncodes_formatFX 0xF 0x15 .ldDtVx,
    rowEncodes_formatFX 0xF 0x18 .ldStVx, rowEncodes_formatFX 0xF 0x1E .addIVx, rowEncodes_formatFX 0xF 0x29 .ldFVx,
    rowEncodes_formatFX 0xF 0x33 .ldBVx, rowEncodes_formatFX 0xF 0x55 .ldIndVx, rowEncodes_formatFX 0xF 0x65 .ldVxInd, by simp⟩

/-- The other direction: the word of every instruction is of a row with its mnemonic. -/
theorem exists_row : ∀ i : Instr, Laws.TableRow.Statement i
  | .cls => Laws.TableRow.cls
  | .ret => Laws.TableRow.ret
  | .jpNnn nnn => Laws.TableRow.jpNnn nnn
  | .callNnn nnn => Laws.TableRow.callNnn nnn
  | .seVxKk x kk => Laws.TableRow.seVxKk x kk
  | .sneVxKk x kk => Laws.TableRow.sneVxKk x kk
  | .seVxVy x y => Laws.TableRow.seVxVy x y
  | .ldVxKk x kk => Laws.TableRow.ldVxKk x kk
  | .addVxKk x kk => Laws.TableRow.addVxKk x kk
  | .ldVxVy x y => Laws.TableRow.ldVxVy x y
  | .orVxVy x y => Laws.TableRow.orVxVy x y
  | .andVxVy x y => Laws.TableRow.andVxVy x y
  | .xorVxVy x y => Laws.TableRow.xorVxVy x y
  | .addVxVy x y => Laws.TableRow.addVxVy x y
  | .subVxVy x y => Laws.TableRow.subVxVy x y
  | .shrVx x y => Laws.TableRow.shrVx x y
  | .subnVxVy x y => Laws.TableRow.subnVxVy x y
  | .shlVx x y => Laws.TableRow.shlVx x y
  | .sneVxVy x y => Laws.TableRow.sneVxVy x y
  | .ldINnn nnn => Laws.TableRow.ldINnn nnn
  | .jpV0Nnn nnn => Laws.TableRow.jpV0Nnn nnn
  | .rndVxKk x kk => Laws.TableRow.rndVxKk x kk
  | .drwVxVyN x y n => Laws.TableRow.drwVxVyN x y n
  | .skpVx x => Laws.TableRow.skpVx x
  | .sknpVx x => Laws.TableRow.sknpVx x
  | .ldVxDt x => Laws.TableRow.ldVxDt x
  | .ldVxK x => Laws.TableRow.ldVxK x
  | .ldDtVx x => Laws.TableRow.ldDtVx x
  | .ldStVx x => Laws.TableRow.ldStVx x
  | .addIVx x => Laws.TableRow.addIVx x
  | .ldFVx x => Laws.TableRow.ldFVx x
  | .ldBVx x => Laws.TableRow.ldBVx x
  | .ldIndVx x => Laws.TableRow.ldIndVx x
  | .ldVxInd x => Laws.TableRow.ldVxInd x

/-- The key wait alone has the mnemonic of Fx0A. -/
theorem wellFormed_iff_mnemonic (i : Instr) : WellFormed c i = true ↔ (mnemonicOf i = "LD_Vx__K" → c.keywaitImpl = true) := by
  cases i <;> simp [WellFormed, mnemonicOf]

/-- Two rows that differ in a bit both fix share no word. -/
theorem not_rowMatches_both {r q : TableRow} (h : (r.pattern ^^^ q.pattern) &&& r.mask &&& q.mask ≠ 0)
    (hr : rowMatches r op = true) (hq : rowMatches q op = true) : False := by
  apply h
  rw [← eq_of_rowMatches hr, ← eq_of_rowMatches hq]
  apply BitVec.eq_of_getLsbD_eq
  intro j hj
  simp only [BitVec.getLsbD_and, BitVec.getLsbD_xor]
  grind

/-- Of a list whose entries exclude one another, one that passes the filter is all that passes it. -/
theorem filter_eq_singleton {α : Type} {R : α → α → Prop} {p : α → Bool} {l : List α} {a : α} (hl : l.Pairwise R)
    (hR : ∀ {b b' : α}, R b b' → p b = true → p b' = true → False) (ha : a ∈ l) (hp : p a = true) : l.filter p = [a] := by
  have hmem : a ∈ l.filter p := List.mem_filter.2 ⟨ha, hp⟩
  have hpass : ∀ b ∈ l.filter p, p b = true := fun b hb => (List.mem_filter.1 hb).2
  have hpair : (l.filter p).Pairwise R := hl.filter p
  match hf : l.filter p with
  | [] => simp [hf] at hmem
  | [b] => simpa [hf, eq_comm] using hmem
  | b :: b' :: rest =>
    rw [hf] at hpair hpass
    have hbb' : R b b' := (List.pairwise_cons.1 hpair).1 b' (by simp)
    exact (hR hbb' (hpass b (by simp)) (hpass b' (by simp))).elim

theorem filter_opcodeTable {r : TableRow} (hr : r ∈ opcodeTable) (hm : rowMatches r op = true) :
    opcodeTable.filter (fun q => rowMatches q op) = [r] :=
  filter_eq_singleton opcodeTable_disjoint not_rowMatches_both hr hm

/-- Settles O4: the rows' words are exactly the words of the instructions with their mnemonics, and no two rows share a word. -/
theorem decodeAgreesWithTheTable : Obligations.DecodeAgreesWithTheTable := by
  intro c op
  refine ⟨⟨?_, ?_⟩, ?_, fun e he => decode_error_eq c he⟩
  · rintro ⟨i, hi⟩
    obtain ⟨hwf, rfl⟩ := encode_of_decode c hi
    obtain ⟨r, hr, hname, hmatch⟩ := exists_row i
    exact ⟨r, hr, hmatch, fun hk => (wellFormed_iff_mnemonic c i).1 hwf (hname ▸ hk)⟩
  · rintro ⟨r, hr, hmatch, hkeywait⟩
    obtain ⟨i, hname, rfl⟩ := opcodeTable_encodes r hr op hmatch
    exact ⟨i, decode_encode c i ((wellFormed_iff_mnemonic c i).2 (hname ▸ hkeywait))⟩
  · intro i hi
    obtain ⟨-, rfl⟩ := encode_of_decode c hi
    obtain ⟨r, hr, hname, hmatch⟩ := exists_row i
    rw [filter_opcodeTable hr hmatch, List.map_singleton, hname]

/-- Settles O1: each word by evaluation of the decoder. -/
theorem sampleWordsDecodeAsEncoded : Obligations.SampleWordsDecodeAsEncoded := by
  unfold Obligations.SampleWordsDecodeAsEncoded
  decide

end Sys2Proof.Machine
end

section
/-! SUPPORT. What an executed instruction may change, said once over all instructions: `writes` lists the parts, `nextPc` gives the program
counter. -/

namespace Sys2Proof.Machine

open Sys2Proof.Safety

/-! ### The parts an instruction writes -/

/-- The registers Fx65 loads, V0 to Vx. -/
def loadedRegs (x : RegIx) : List Part :=
  (List.finRange 16).filterMap (fun k => if k ≤ x then some (Part.v k) else none)

/-- The parts of the state an instruction writes when it reports `Ok`. -/
def writes (i : Instr) : List Part :=
  match i with
  | .cls => [.disp]
  | .ret => [.pc, .sp]
  | .jpNnn _ | .jpV0Nnn _ => [.pc]
  | .callNnn _ => [.pc, .sp, .stack]
  | .seVxKk _ _ | .sneVxKk _ _ | .seVxVy _ _ | .sneVxVy _ _ | .skpVx _ | .sknpVx _ => [.pc]
  | .ldVxKk x _ | .addVxKk x _ | .ldVxVy x _ | .orVxVy x _ | .andVxVy x _ | .xorVxVy x _ | .ldVxDt x => [.v x]
  | .addVxVy x _ | .subVxVy x _ | .shrVx x _ | .subnVxVy x _ | .shlVx x _ => [.v x, .v vf]
  | .rndVxKk x _ => [.v x, .draws]
  | .ldINnn _ | .addIVx _ | .ldFVx _ => [.i]
  | .drwVxVyN _ _ _ => [.disp, .v vf]
  | .ldVxK _ => [.mode]
  | .ldDtVx _ => [.dt]
  | .ldStVx _ => [.st]
  | .ldBVx _ | .ldIndVx _ => [.mem]
  | .ldVxInd x => loadedRegs x

theorem v_mem_loadedRegs {x k : RegIx} : Part.v k ∈ loadedRegs x ↔ k ≤ x := by
  simp [loadedRegs]

theorem exists_of_mem_loadedRegs {x : RegIx} {p : Part} (h : p ∈ loadedRegs x) : ∃ k, p = .v k := by
  simp only [loadedRegs, List.mem_filterMap] at h
  obtain ⟨k, -, hk⟩ := h
  split at hk <;> cases hk
  exact ⟨k, rfl⟩

variable (s : State)

/-- A load of `len` registers leaves those from number `len` on. -/
theorem frame_setRegs {bytes : List Byte} {x : RegIx} (hlen : bytes.length = x.val + 1) :
    Frame (loadedRegs x) s (s.setRegs bytes) := by
  constructor <;> intros <;> try rfl
  next k hk =>
    rw [v_mem_loadedRegs, Fin.not_le] at hk
    refine (loadRegs_get s.v 0 bytes k.val k.isLt).trans (dif_neg ?_)
    omega

/-! ### Outcomes of the branching instructions -/

/-- A return with an entry live pops it and jumps. -/
theorem exec_ret_of_pos (h : 0 < s.sp.val) :
    exec .ret s = done ((s.setSp ⟨s.sp.val - 1, by omega⟩).setPc s.stack[s.sp.val - 1]) := by
  simp only [exec, execRet, s.pop_of_pos h]

theorem exec_skpVx_of_lt {x : RegIx} (h : s.v[x].toNat < 16) :
    exec (.skpVx x) s = done (s.skipIf s.keys[s.v[x].toNat]) := by
  simp only [exec, execSkpVx, State.reg_eq, s.keyState_of_lt h]

theorem exec_sknpVx_of_lt {x : RegIx} (h : s.v[x].toNat < 16) :
    exec (.sknpVx x) s = done (s.skipIf (!s.keys[s.v[x].toNat])) := by
  simp only [exec, execSknpVx, State.reg_eq, s.keyState_of_lt h]

theorem exec_keySkip_of_ge {i : Instr} {x : RegIx} (hi : i = .skpVx x ∨ i = .sknpVx x) (h : 15 < s.v[x].toNat) :
    exec i s = raise (.keyIndexOutOfRange s.v[x]) s := by
  rcases hi with rfl | rfl
  · simp only [exec, execSkpVx, State.reg_eq, s.keyState_of_ge h]
  · simp only [exec, execSknpVx, State.reg_eq, s.keyState_of_ge h]

variable {s} {t : State}

/-- A call that reports `Ok` had an entry free. -/
theorem sp_lt_of_exec_callNnn {nnn : Addr} (h : exec (.callNnn nnn) s = .next t) (hr : t.result = .ok) : s.sp.val < 16 := by
  refine Nat.lt_of_le_of_ne s.sp.is_le fun hsp => ?_
  have hover := (exec_stackOverflow_iff s h).2 ⟨⟨nnn, rfl⟩, Fin.ext hsp⟩
  simp [hr] at hover

/-- A return that reports `Ok` had an entry to pop. -/
theorem sp_pos_of_exec_ret (h : exec .ret s = .next t) (hr : t.result = .ok) : 0 < s.sp.val := by
  refine Nat.pos_of_ne_zero fun hsp => ?_
  have hunder := (exec_stackUnderflow_iff s h).2 ⟨rfl, Fin.ext hsp⟩
  simp [hr] at hunder

/-- A skip on a key that reports `Ok` had a key index below 16. -/
theorem lt_of_exec_keySkip {i : Instr} {x : RegIx} (hi : i = .skpVx x ∨ i = .sknpVx x) (h : exec i s = .next t)
    (hr : t.result = .ok) : s.v[x].toNat < 16 := by
  by_contra hge
  rw [exec_keySkip_of_ge s hi (by omega), raise_eq_next] at h
  simp [h] at hr

/-- A checked instruction that reports `Ok` has run. -/
theorem eq_of_withRange_ok {base len : Nat} {u : State} (h : withRange s base len (done u) = .next t) (hr : t.result = .ok) :
    (len = 0 ∨ InRange s base len) ∧ t = u.report .ok := by
  rcases withRange_cases s base len (done u) with ⟨hw, hin⟩ | ⟨hw, -⟩
  · exact ⟨hin, (done_eq_next _ _).1 (hw.symm.trans h)⟩
  · rw [hw, raise_eq_next] at h
    simp [h] at hr

theorem frame_withRange_ok {A : List Part} {base len : Nat} {u : State} (hu : Frame A s u)
    (h : withRange s base len (done u) = .next t) (hr : t.result = .ok) : Frame A s t := by
  obtain ⟨-, ht⟩ := eq_of_withRange_ok h hr
  exact hu.done ((done_eq_next _ _).2 ht)

/-! ### The frame of an instruction -/

/-- An instruction that reports `Ok` changes the parts it writes alone. -/
theorem frame_exec_of_ok {i : Instr} (h : exec i s = .next t) (hr : t.result = .ok) : Frame (writes i) s t := by
  cases i
  case cls => exact (frame_setDisp s _).done h
  case ret =>
    rw [exec_ret_of_pos s (sp_pos_of_exec_ret h hr)] at h
    exact (((frame_setSp s _).trans (frame_setPc _ _)).mono (by simp [writes])).done h
  case callNnn nnn =>
    have hsp := sp_lt_of_exec_callNnn h hr
    rw [exec_callNnn_of_lt s nnn hsp] at h
    exact (frame_call s _ _ _ _ hsp).done h
  case jpNnn | jpV0Nnn => exact (frame_setPc s _).done h
  case seVxKk | sneVxKk | seVxVy | sneVxVy => exact (frame_skipIf s _).done h
  case skpVx x =>
    rw [exec_skpVx_of_lt s (lt_of_exec_keySkip (.inl rfl) h hr)] at h
    exact (frame_skipIf s _).done h
  case sknpVx x =>
    rw [exec_sknpVx_of_lt s (lt_of_exec_keySkip (.inr rfl) h hr)] at h
    exact (frame_skipIf s _).done h
  case ldVxKk | addVxKk | ldVxVy | orVxVy | andVxVy | xorVxVy | ldVxDt => exact (frame_setV s _ _).done h
  case addVxVy | subVxVy | shrVx | subnVxVy | shlVx => exact (frame_setResultThenFlag s _ _ _).done h
  case rndVxKk => exact (((frame_countDraw s).trans (frame_setV _ _ _)).mono (by simp [writes])).done h
  case ldINnn | addIVx | ldFVx => exact (frame_setI s _).done h
  case drwVxVyN => exact frame_withRange_ok ((frame_setDisp s _).trans (frame_setV _ vf _)) h hr
  case ldVxK => exact (frame_setMode s _).done h
  case ldDtVx => exact (frame_setDt s _).done h
  case ldStVx => exact (frame_setSt s _).done h
  case ldBVx | ldIndVx => exact frame_withRange_ok (frame_writeBytes s _ _) h hr
  case ldVxInd x => exact frame_withRange_ok (frame_setRegs s (s.readBytes_length _ _)) h hr

/-- Whatever it reports, an instruction changes the parts it writes and the model's record alone. -/
theorem frame_exec {i : Instr} (h : exec i s = .next t) : Frame (.failure :: writes i) s t := by
  by_cases hr : t.result = .ok
  · exact (frame_exec_of_ok h hr).mono (List.subset_cons_self _ _)
  · exact (frame_exec_of_result_ne_ok s h hr).mono (by simp)

/-! ### The program counter after an instruction -/

/-- PC after an instruction that reports `Ok`, from PC already advanced past it (41_flow.md). -/
def nextPc (i : Instr) (s : State) : Word :=
  match i with
  | .ret => s.stack[s.sp.val - 1]
  | .jpNnn nnn | .callNnn nnn => zextAddr nnn
  | .jpV0Nnn nnn => zextAddr nnn + zext16 s.v[0]
  | .seVxKk x kk => (s.skipIf (s.v[x] == kk)).pc
  | .sneVxKk x kk => (s.skipIf (s.v[x] != kk)).pc
  | .seVxVy x y => (s.skipIf (s.v[x] == s.v[y])).pc
  | .sneVxVy x y => (s.skipIf (s.v[x] != s.v[y])).pc
  | .skpVx x => (s.skipIf (s.keyState s.v[x] == some true)).pc
  | .sknpVx x => (s.skipIf (s.keyState s.v[x] == some false)).pc
  | _ => s.pc

theorem pc_exec_of_ok {i : Instr} (h : exec i s = .next t) (hr : t.result = .ok) : t.pc = nextPc i s := by
  cases i
  case ret =>
    rw [exec_ret_of_pos s (sp_pos_of_exec_ret h hr), done_eq_next] at h
    rw [h]; rfl
  case callNnn nnn =>
    rw [exec_callNnn_of_lt s nnn (sp_lt_of_exec_callNnn h hr), done_eq_next] at h
    rw [h]; rfl
  case jpNnn | jpV0Nnn | seVxKk | sneVxKk | seVxVy | sneVxVy => rw [(done_eq_next _ _).1 h]; rfl
  case skpVx x =>
    have hlt := lt_of_exec_keySkip (.inl rfl) h hr
    rw [exec_skpVx_of_lt s hlt, done_eq_next] at h
    simp only [h, State.report_pc, nextPc, s.keyState_of_lt hlt]
    cases s.keys[s.v[x].toNat] <;> rfl
  case sknpVx x =>
    have hlt := lt_of_exec_keySkip (.inr rfl) h hr
    rw [exec_sknpVx_of_lt s hlt, done_eq_next] at h
    simp only [h, State.report_pc, nextPc, s.keyState_of_lt hlt]
    cases s.keys[s.v[x].toNat] <;> rfl
  case ldVxInd x =>
    exact (frame_exec_of_ok h hr).pc fun hpc => by simpa using exists_of_mem_loadedRegs hpc
  all_goals exact (frame_exec_of_ok h hr).pc (by simp [writes])

/-- The sum of a 12-bit and an 8-bit number fits in 16 bits (41_flow.md R127). -/
theorem zextAddr_add_zext16_toNat (nnn : Addr) (b : Byte) : (zextAddr nnn + zext16 b).toNat = nnn.toNat + b.toNat := by
  rw [BitVec.toNat_add, zextAddr_toNat, zext16_toNat]
  exact Nat.mod_eq_of_lt (by omega)

/-- A bound on PC after an instruction, from a bound on PC and on the return addresses: Bnnn reaches furthest. -/
theorem nextPc_le (i : Instr) (hpc : s.pc.toNat ≤ 0x1000) (hstack : ∀ j : Fin 16, s.stack[j].toNat ≤ 0x1000) :
    (nextPc i s).toNat ≤ 0x10FE := by
  have hskip (taken : Bool) : (s.skipIf taken).pc.toNat ≤ 0x10FE := by
    rw [State.skipIf_pc_toNat]
    split <;> omega
  have htarget (nnn : Addr) : (zextAddr nnn).toNat ≤ 0x10FE := by
    rw [zextAddr_toNat]
    omega
  cases i
  case ret => exact (hstack ⟨s.sp.val - 1, by omega⟩).trans (by decide)
  case jpNnn nnn | callNnn nnn => exact htarget nnn
  case jpV0Nnn nnn =>
    have hoffset : s.v[0].toNat ≤ 0xFF := Nat.le_of_lt_succ s.v[0].isLt
    refine (zextAddr_add_zext16_toNat nnn s.v[0]).trans_le ?_
    omega
  case seVxKk | sneVxKk | seVxVy | sneVxVy | skpVx | sknpVx => exact hskip _
  all_goals exact hpc.trans (by decide)

end Sys2Proof.Machine
end

section
/-! SUPPORT. The invariant of 10_state.md R28 (decisions D2, D4): it holds at reset, and every step and every transaction of the host keeps it. -/

namespace Sys2Proof.Machine

open Sys2Proof.Safety

variable {s t : State}

/-! ### States that differ in no part the invariant speaks of -/

/-- The invariant looks at memory, PC, the stack and the parameters alone. -/
theorem inv_congr (h : Inv s) (hmem : t.mem = s.mem) (hpc : t.pc = s.pc) (hstack : t.stack = s.stack)
    (hconfig : t.config = s.config) : Inv t where
  mem := by rw [State.memWf, hmem, hconfig]; exact h.mem
  pc hp := by rw [hpc]; exact h.pc (hconfig ▸ hp)
  stack hp := by rw [hstack]; exact h.stack (hconfig ▸ hp)

/-- A reset state meets the invariant, whatever its parameters (10_state.md R38). -/
theorem inv_resetPort (s : State) : Inv s.resetPort where
  mem := Memory.wf_nil _
  pc _ := show (0x200#16).toNat ≤ 0x10FE by decide
  stack _ j := by
    have hzero : s.resetPort.stack[j] = 0 := Vector.getElem_replicate j.isLt
    rw [hzero]
    exact Nat.zero_le _

/-- Settles O9: no cell is listed, PC is 0x200 and every return address is 0. -/
theorem resetMeetsTheInvariant : Obligations.ResetMeetsTheInvariant := inv_resetPort State.reset

/-- A run of byte stores keeps the invariant: it changes memory alone, and keeps that canonical. -/
theorem inv_writeBytes (h : Inv s) (base : Nat) (bytes : List Byte) : Inv (s.writeBytes base bytes) where
  mem := s.memWf_writeBytes base bytes h.mem
  pc hp := by rw [State.writeBytes_eq] at hp ⊢; exact h.pc hp
  stack hp := by rw [State.writeBytes_eq] at hp ⊢; exact h.stack hp

/-! ### An executed instruction -/

/-- Every instruction but the two stores leaves the memory cells as they are. -/
theorem mem_exec {i : Instr} (hbcd : ∀ x, i ≠ .ldBVx x) (hstore : ∀ x, i ≠ .ldIndVx x) (h : exec i s = .next t)
    (hr : t.result = .ok) : t.mem = s.mem := by
  cases i
  case ldBVx x => exact absurd rfl (hbcd x)
  case ldIndVx x => exact absurd rfl (hstore x)
  case ret =>
    rw [exec_ret_of_pos s (sp_pos_of_exec_ret h hr), done_eq_next] at h
    rw [h]; rfl
  case callNnn nnn =>
    rw [exec_callNnn_of_lt s nnn (sp_lt_of_exec_callNnn h hr), done_eq_next] at h
    rw [h]; rfl
  case skpVx x =>
    rw [exec_skpVx_of_lt s (lt_of_exec_keySkip (.inl rfl) h hr), done_eq_next] at h
    rw [h, State.report_mem, State.skipIf_mem]
  case sknpVx x =>
    rw [exec_sknpVx_of_lt s (lt_of_exec_keySkip (.inr rfl) h hr), done_eq_next] at h
    rw [h, State.report_mem, State.skipIf_mem]
  case seVxKk | sneVxKk | seVxVy | sneVxVy => rw [(done_eq_next _ _).1 h, State.report_mem, State.skipIf_mem]
  case drwVxVyN | ldVxInd => rw [(eq_of_withRange_ok h hr).2]; rfl
  all_goals rw [(done_eq_next _ _).1 h]; rfl

/-- A store of bytes through I that reports `Ok` keeps memory canonical. -/
theorem memWf_of_store {base len : Nat} {bytes : List Byte} (hs : s.memWf)
    (h : withRange s base len (done (s.writeBytes base bytes)) = .next t) (hr : t.result = .ok) : t.memWf := by
  rw [(eq_of_withRange_ok h hr).2]
  exact s.memWf_writeBytes base bytes hs

theorem memWf_exec {i : Instr} (hs : s.memWf) (h : exec i s = .next t) (hr : t.result = .ok) : t.memWf := by
  by_cases hbcd : ∃ x, i = .ldBVx x
  · obtain ⟨x, rfl⟩ := hbcd
    exact memWf_of_store hs h hr
  by_cases hstore : ∃ x, i = .ldIndVx x
  · obtain ⟨x, rfl⟩ := hstore
    exact memWf_of_store hs h hr
  have hmem := mem_exec (fun x hi => hbcd ⟨x, hi⟩) (fun x hi => hstore ⟨x, hi⟩) h hr
  rw [State.memWf, hmem, (frame_exec h).config]
  exact hs

/-- The stack after an instruction that reports `Ok`: 2nnn alone adds an entry, the advanced PC. -/
theorem stack_exec_le {i : Instr} {bound : Nat} (hpc : s.pc.toNat ≤ bound) (hstack : ∀ j : Fin 16, s.stack[j].toNat ≤ bound)
    (h : exec i s = .next t) (hr : t.result = .ok) (j : Fin 16) : t.stack[j].toNat ≤ bound := by
  by_cases hcall : ∃ nnn, i = .callNnn nnn
  · obtain ⟨nnn, rfl⟩ := hcall
    have hsp := sp_lt_of_exec_callNnn h hr
    rw [exec_callNnn_of_lt s nnn hsp, done_eq_next] at h
    have hentry : t.stack[j] = if s.sp.val = j.val then s.pc else s.stack[j] := by
      rw [h]; exact Vector.getElem_set hsp j.isLt
    rw [hentry]
    split
    · exact hpc
    · exact hstack j
  · rw [exec_stack s (fun nnn hi => hcall ⟨nnn, hi⟩) h]
    exact hstack j

/-- An instruction keeps the invariant when PC is at most 0x1000, as it is after the advance of a fetch in range. -/
theorem inv_exec {i : Instr} (hs : Inv s) (hpc : s.config.addrPolicy = .fault → s.pc.toNat ≤ 0x1000)
    (h : exec i s = .next t) : Inv t := by
  rcases exec_result_cases s h with hr | ⟨-, ht⟩
  · have hconfig : t.config = s.config := (frame_exec h).config
    refine ⟨memWf_exec hs.mem h hr, fun hp => ?_, fun hp => ?_⟩
    · rw [pc_exec_of_ok h hr]
      exact nextPc_le i (hpc (hconfig ▸ hp)) (hs.stack (hconfig ▸ hp))
    · exact stack_exec_le (hpc (hconfig ▸ hp)) (hs.stack (hconfig ▸ hp)) h hr
  · rw [ht]
    exact inv_congr hs rfl rfl rfl rfl

/-! ### The step -/

/-- Under ADDR_POLICY fault a fetch in range leaves PC at most 0x1000. -/
theorem advancePc_le_of_fetch {op : Word} (hf : s.fetch = .ok op) (hp : s.config.addrPolicy = .fault) :
    s.advancePc.pc.toNat ≤ 0x1000 := by
  have hin := s.fetch_ok hf hp
  rw [State.advancePc_pc, BitVec.toNat_add]
  exact (Nat.mod_le _ _).trans hin

theorem inv_advancePc {op : Word} (hs : Inv s) (hf : s.fetch = .ok op) : Inv s.advancePc where
  mem := hs.mem
  pc hp := (advancePc_le_of_fetch hf hp).trans (by decide)
  stack := hs.stack

theorem inv_keywaitPoll {x : RegIx} (hs : Inv s) (h : keywaitPoll x s = .next t) : Inv t := by
  rcases keywaitPoll_cases s x with ⟨k, -, -, hpoll⟩ | ⟨-, hpoll⟩ <;> cases hpoll.symm.trans h
  · exact inv_congr hs rfl rfl rfl rfl
  · exact inv_congr hs rfl rfl rfl rfl

theorem inv_step (hs : Inv s) (h : step s = .next t) : Inv t := by
  rcases step_cases s with ⟨x, -, hs'⟩ | ⟨-, a, -, hs'⟩ | ⟨-, op, e, hf, -, hs'⟩ | ⟨-, op, i, hf, -, hs'⟩ <;> rw [hs'] at h
  · exact inv_keywaitPoll hs h
  · cases h
  · rw [unknownOpcode_eq_next] at h
    exact h ▸ inv_congr (inv_advancePc hs hf) rfl rfl rfl rfl
  · exact inv_exec (inv_advancePc hs hf) (advancePc_le_of_fetch hf) h

/-- Settles O10: the fetch leaves PC at most 0x1000, from where Bnnn reaches furthest, and 2nnn stores no more than that PC. -/
theorem everyStepKeepsTheInvariant : Obligations.EveryStepKeepsTheInvariant := by
  intro s t
  exact inv_step

/-! ### The host's transactions -/

theorem inv_stepPort (hs : Inv s) : Inv s.stepPort.1 := by
  cases h : step s with
  | next t => rw [s.stepPort_of_next t h]; exact inv_step hs h
  | fault r => obtain ⟨a⟩ := r; rw [s.stepPort_of_fault a h]; exact inv_congr hs rfl rfl rfl rfl
  | refused r => simpa only [State.stepPort, h] using hs

theorem inv_loadPort (hs : Inv s) (rom : List Byte) : Inv (s.loadPort rom).1 := by
  unfold State.loadPort
  split
  · exact inv_writeBytes hs 0x200 rom
  · exact hs

/-- `setKey` writes the keys or nothing. -/
theorem transact_setKey_eq (s : State) (index : Nat) (pressed : Bool) :
    ∃ keys, (transact (.setKey index pressed) s).1 = s.setKeys keys := by
  simp only [transact, State.setKeyPort]
  by_cases hindex : index < 16
  · exact ⟨s.keys.set index pressed, by simp [hindex]⟩
  · exact ⟨s.keys, by simp [hindex]⟩

theorem inv_transact (hs : Inv s) (tr : Transaction) : Inv (transact tr s).1 := by
  cases tr with
  | reset => exact inv_resetPort s
  | load rom => exact inv_loadPort hs rom
  | step => exact inv_stepPort hs
  | setKey index pressed =>
    obtain ⟨keys, hkeys⟩ := transact_setKey_eq s index pressed
    exact hkeys ▸ inv_congr hs rfl rfl rfl rfl
  | tickTimers | updateKeys keys => exact inv_congr hs rfl rfl rfl rfl
  | displaySnapshot | soundActive | peek c => exact hs

end Sys2Proof.Machine
end

section
/-! SUPPORT. Which instructions and which transactions change a part of the state (10_state.md sections 2 to 11, 20_memory.md section 4), read
off the parts an instruction writes. -/

namespace Sys2Proof.Machine

open Sys2Proof.Safety

variable {s t : State} {i : Instr}

/-! ### The instructions that write a part -/

theorem not_mem_loadedRegs {x : RegIx} {p : Part} (hp : ∀ k, p ≠ .v k) : p ∉ loadedRegs x := fun h =>
  (exists_of_mem_loadedRegs h).elim fun k hk => hp k hk

theorem mem_mem_writes : Part.mem ∈ writes i ↔ (∃ x, i = .ldBVx x) ∨ ∃ x, i = .ldIndVx x := by
  cases i <;> simp [writes, not_mem_loadedRegs]

theorem disp_mem_writes : Part.disp ∈ writes i ↔ i = .cls ∨ ∃ x y n, i = .drwVxVyN x y n := by
  cases i <;> simp [writes, not_mem_loadedRegs]

theorem i_mem_writes : Part.i ∈ writes i ↔ (∃ nnn, i = .ldINnn nnn) ∨ (∃ x, i = .addIVx x) ∨ ∃ x, i = .ldFVx x := by
  cases i <;> simp [writes, not_mem_loadedRegs]

theorem dt_mem_writes : Part.dt ∈ writes i ↔ ∃ x, i = .ldDtVx x := by
  cases i <;> simp [writes, not_mem_loadedRegs]

theorem st_mem_writes : Part.st ∈ writes i ↔ ∃ x, i = .ldStVx x := by
  cases i <;> simp [writes, not_mem_loadedRegs]

theorem sp_mem_writes : Part.sp ∈ writes i ↔ i = .ret ∨ ∃ nnn, i = .callNnn nnn := by
  cases i <;> simp [writes, not_mem_loadedRegs]

theorem mode_mem_writes : Part.mode ∈ writes i ↔ ∃ x, i = .ldVxK x := by
  cases i <;> simp [writes, not_mem_loadedRegs]

/-- A part other than the model's record that an instruction changed is one it writes. -/
theorem mem_writes_of_changed {p : Part} (hp : p ≠ .failure) (h : ¬ (p ∉ Part.failure :: writes i)) : p ∈ writes i :=
  (List.mem_cons.1 (not_not.1 h)).resolve_left hp

/-! ### What an instruction changed, it writes -/

theorem i_exec (h : exec i s = .next t) (hne : t.i ≠ s.i) : Part.i ∈ writes i :=
  mem_writes_of_changed nofun fun hp => hne ((frame_exec h).i hp)

theorem dt_exec (h : exec i s = .next t) (hne : t.dt ≠ s.dt) : Part.dt ∈ writes i :=
  mem_writes_of_changed nofun fun hp => hne ((frame_exec h).dt hp)

theorem st_exec (h : exec i s = .next t) (hne : t.st ≠ s.st) : Part.st ∈ writes i :=
  mem_writes_of_changed nofun fun hp => hne ((frame_exec h).st hp)

theorem sp_exec (h : exec i s = .next t) (hne : t.sp ≠ s.sp) : Part.sp ∈ writes i :=
  mem_writes_of_changed nofun fun hp => hne ((frame_exec h).sp hp)

theorem disp_exec (h : exec i s = .next t) (hne : t.disp ≠ s.disp) : Part.disp ∈ writes i :=
  mem_writes_of_changed nofun fun hp => hne ((frame_exec h).disp hp)

theorem byteAt_exec {a : Nat} (h : exec i s = .next t) (hne : t.byteAt a ≠ s.byteAt a) : Part.mem ∈ writes i :=
  mem_writes_of_changed nofun fun hp => hne ((frame_exec h).mem hp a)

theorem v_exec {x : RegIx} (h : exec i s = .next t) (hne : t.v[x] ≠ s.v[x]) : Part.v x ∈ writes i :=
  mem_writes_of_changed nofun fun hp => hne ((frame_exec h).v x hp)

/-- Fx0A alone changes the wait state, to the wait for its register. -/
theorem mode_exec (h : exec i s = .next t) (hne : t.mode ≠ s.mode) : ∃ x, i = .ldVxK x ∧ t.mode = .awaitingKey x := by
  have hwrites : Part.mode ∈ writes i := mem_writes_of_changed nofun fun hp => hne ((frame_exec h).mode hp)
  obtain ⟨x, rfl⟩ := mode_mem_writes.1 hwrites
  refine ⟨x, rfl, ?_⟩
  rw [(done_eq_next _ _).1 h]
  rfl

/-- Settles O59: VF is among the parts an instruction writes as its flag, as its destination, or as a register Fx65 loads with x = F. -/
theorem onlyFlagInstructionsChangeVFAsAFlag : Obligations.OnlyFlagInstructionsChangeVFAsAFlag := by
  intro i s t h hne
  have hwrites : Part.v vf ∈ writes i := v_exec h hne
  cases i
  case addVxVy | subVxVy | shrVx | subnVxVy | shlVx | drwVxVyN => trivial
  case ldVxInd x => exact Fin.last_le_iff.1 (v_mem_loadedRegs.1 hwrites)
  all_goals simp [writes] at hwrites
  all_goals exact hwrites.symm

/-! ### The step port -/

/-- A step at the port ends the key wait or reports `Waiting`; or it runs no instruction; or it runs one, which changes the parts it
writes alone. -/
theorem State.frame_stepPort (s : State) :
    (∃ x, s.mode = .awaitingKey x ∧
      ((∃ k : RegIx, s.keys[k] = true ∧ s.stepPort.1.mode = .running ∧ Frame [.v x, .mode] s s.stepPort.1) ∨
        Frame [] s s.stepPort.1)) ∨
    Frame [.pc, .failure] s s.stepPort.1 ∨
    ∃ i, Runs s i ∧ exec i s.advancePc = .next s.stepPort.1 := by
  rcases s.stepPort_cases with ⟨x, hm, hpoll⟩ | ⟨-, a, -, ht⟩ | ⟨-, op, e, -, -, ht⟩ | hrun
  · refine .inl ⟨x, hm, ?_⟩
    rcases hpoll with ⟨k, hk, ht⟩ | ht <;> rw [ht]
    · exact .inl ⟨k, hk, rfl, ((frame_setV s x _).trans (frame_setMode _ _)).done rfl⟩
    · exact .inr (frame_report s _)
  · rw [ht]
    exact .inr (.inl ((frame_recordFailure s _).mono (by simp)))
  · rw [ht]
    exact .inr (.inl (frame_advancePc_recordFailure s _))
  · exact .inr (.inr hrun)

/-- What the step port changes, apart from PC and the parts the end of a key wait writes, the instruction it runs changes: for `f` any of the
parts of the state, which the frames of the other two cases keep. -/
theorem State.stepPort_runs {α : Type} {f : State → α} (hne : f s.stepPort.1 ≠ f s) (hadvance : f s.advancePc = f s)
    (hpoll : ∀ x, Frame [.v x, .mode] s s.stepPort.1 → f s.stepPort.1 = f s)
    (hunknown : Frame [.pc, .failure] s s.stepPort.1 → f s.stepPort.1 = f s) :
    ∃ i, Runs s i ∧ exec i s.advancePc = .next s.stepPort.1 ∧ f s.stepPort.1 ≠ f s.advancePc := by
  rcases s.frame_stepPort with ⟨x, -, ⟨k, -, -, hframe⟩ | hframe⟩ | hframe | ⟨i, hruns, h⟩
  · exact absurd (hpoll x hframe) hne
  · exact absurd (hpoll x (hframe.mono (List.nil_subset _))) hne
  · exact absurd (hunknown hframe) hne
  · exact ⟨i, hruns, h, hadvance ▸ hne⟩

theorem stepPort_i (hne : s.stepPort.1.i ≠ s.i) : ∃ i, Runs s i ∧ Part.i ∈ writes i := by
  obtain ⟨i, hruns, h, hne⟩ := State.stepPort_runs hne rfl (fun _ hf => hf.i (by simp)) (fun hf => hf.i (by simp))
  exact ⟨i, hruns, i_exec h hne⟩

theorem stepPort_dt (hne : s.stepPort.1.dt ≠ s.dt) : ∃ i, Runs s i ∧ Part.dt ∈ writes i := by
  obtain ⟨i, hruns, h, hne⟩ := State.stepPort_runs hne rfl (fun _ hf => hf.dt (by simp)) (fun hf => hf.dt (by simp))
  exact ⟨i, hruns, dt_exec h hne⟩

theorem stepPort_st (hne : s.stepPort.1.st ≠ s.st) : ∃ i, Runs s i ∧ Part.st ∈ writes i := by
  obtain ⟨i, hruns, h, hne⟩ := State.stepPort_runs hne rfl (fun _ hf => hf.st (by simp)) (fun hf => hf.st (by simp))
  exact ⟨i, hruns, st_exec h hne⟩

theorem stepPort_sp (hne : s.stepPort.1.sp ≠ s.sp) : ∃ i, Runs s i ∧ Part.sp ∈ writes i := by
  obtain ⟨i, hruns, h, hne⟩ := State.stepPort_runs hne rfl (fun _ hf => hf.sp (by simp)) (fun hf => hf.sp (by simp))
  exact ⟨i, hruns, sp_exec h hne⟩

theorem stepPort_disp (hne : s.stepPort.1.disp ≠ s.disp) : ∃ i, Runs s i ∧ Part.disp ∈ writes i := by
  obtain ⟨i, hruns, h, hne⟩ := State.stepPort_runs hne rfl (fun _ hf => hf.disp (by simp)) (fun hf => hf.disp (by simp))
  exact ⟨i, hruns, disp_exec h hne⟩

theorem stepPort_mode (hne : s.stepPort.1.mode ≠ s.mode) :
    (∃ x, Runs s (.ldVxK x) ∧ s.stepPort.1.mode = .awaitingKey x) ∨
    ∃ (x : RegIx) (k : RegIx), s.mode = .awaitingKey x ∧ s.keys[k] = true ∧ s.stepPort.1.mode = .running := by
  rcases s.frame_stepPort with ⟨x, hm, ⟨k, hk, hmode, -⟩ | hframe⟩ | hframe | ⟨i, hruns, h⟩
  · exact .inr ⟨x, k, hm, hk, hmode⟩
  · exact absurd (hframe.mode (by simp)) hne
  · exact absurd (hframe.mode (by simp)) hne
  · obtain ⟨x, rfl, hmode⟩ := mode_exec h hne
    exact .inl ⟨x, hruns, hmode⟩

theorem stepPort_config (s : State) : s.stepPort.1.config = s.config := by
  rcases s.frame_stepPort with ⟨x, -, ⟨k, -, -, hframe⟩ | hframe⟩ | hframe | ⟨i, -, h⟩
  · exact hframe.config
  · exact hframe.config
  · exact hframe.config
  · exact (frame_exec h).config

/-- Settles O57: the display is among the parts two instructions write, and no step without an instruction changes it. -/
theorem onlyDrawAndClearWriteTheDisplay : Obligations.OnlyDrawAndClearWriteTheDisplay := by
  intro s t h hne
  have hport : s.stepPort.1 = t := by rw [s.stepPort_of_next t h]
  obtain ⟨i, ⟨-, op, hf, hd⟩, hwrites⟩ := stepPort_disp (hport ▸ hne)
  refine ⟨op, hf, ?_⟩
  rcases disp_mem_writes.1 hwrites with rfl | ⟨x, y, n, rfl⟩
  · exact .inl hd
  · exact .inr ⟨x, y, n, hd⟩

/-! ### The other transactions -/

theorem frame_loadPort (s : State) (rom : List Byte) : Frame [.mem] s (s.loadPort rom).1 := by
  unfold State.loadPort
  split
  · exact frame_writeBytes s 0x200 rom
  · exact (Frame.refl s).mono (List.nil_subset _)

theorem frame_tickTimersPort (s : State) : Frame [.dt, .st] s s.tickTimersPort :=
  (frame_setDt s _).trans (frame_setSt _ _)

/-- The parts a transaction other than reset and step may change. -/
def portWrites (tr : Transaction) : List Part :=
  match tr with
  | .load _ => [.mem]
  | .tickTimers => [.dt, .st]
  | .setKey _ _ | .updateKeys _ => [.keys]
  | .reset | .step | .displaySnapshot | .soundActive | .peek _ => []

/-- Every transaction but reset and step has a frame. -/
theorem transact_cases (tr : Transaction) (s : State) : tr = .reset ∨ tr = .step ∨ Frame (portWrites tr) s (transact tr s).1 := by
  cases tr with
  | reset => exact .inl rfl
  | step => exact .inr (.inl rfl)
  | load rom => exact .inr (.inr (frame_loadPort s rom))
  | tickTimers => exact .inr (.inr (frame_tickTimersPort s))
  | setKey index pressed =>
    obtain ⟨keys, hkeys⟩ := transact_setKey_eq s index pressed
    exact .inr (.inr (hkeys ▸ frame_setKeys s keys))
  | updateKeys keys => exact .inr (.inr (frame_setKeys s keys))
  | displaySnapshot | soundActive | peek c => exact .inr (.inr (Frame.refl s))

theorem timer_mem_portWrites {tr : Transaction} {p : Part} (hp : p = .dt ∨ p = .st) (h : p ∈ portWrites tr) : tr = .tickTimers := by
  rcases hp with rfl | rfl
  · cases tr <;> simp_all [portWrites]
  · cases tr <;> simp_all [portWrites]

theorem mem_mem_portWrites {tr : Transaction} (h : Part.mem ∈ portWrites tr) : ∃ rom, tr = .load rom := by
  cases tr <;> simp_all [portWrites]

/-- No port but reset and step writes a part other than memory, the timers and the keys. -/
theorem not_mem_portWrites {p : Part} (hp : p ∉ [.mem, .dt, .st, .keys]) (tr : Transaction) : p ∉ portWrites tr := by
  cases tr <;> simp_all [portWrites]

theorem transact_config (tr : Transaction) (s : State) : (transact tr s).1.config = s.config := by
  rcases transact_cases tr s with rfl | rfl | hf
  · rfl
  · exact stepPort_config s
  · exact hf.config

/-- Settles O11: a step by `inv_step`, a load by its run of stores, and no transaction writes the parameters. -/
theorem everyTransactionKeepsTheInvariant : Obligations.EveryTransactionKeepsTheInvariant := by
  intro tr s hs
  exact ⟨inv_transact hs tr, transact_config tr s⟩

/-! ### The writers of the special state, among the transactions -/

theorem transact_i {tr : Transaction} (hne : (transact tr s).1.i ≠ s.i) :
    tr = .reset ∨ tr = .step ∧ ∃ i, Runs s i ∧ Part.i ∈ writes i := by
  rcases transact_cases tr s with rfl | rfl | hf
  · exact .inl rfl
  · exact .inr ⟨rfl, stepPort_i hne⟩
  · exact absurd (hf.i (not_mem_portWrites (by simp) tr)) hne

theorem transact_sp {tr : Transaction} (hne : (transact tr s).1.sp ≠ s.sp) :
    tr = .reset ∨ tr = .step ∧ ∃ i, Runs s i ∧ Part.sp ∈ writes i := by
  rcases transact_cases tr s with rfl | rfl | hf
  · exact .inl rfl
  · exact .inr ⟨rfl, stepPort_sp hne⟩
  · exact absurd (hf.sp (not_mem_portWrites (by simp) tr)) hne

theorem transact_dt {tr : Transaction} (hne : (transact tr s).1.dt ≠ s.dt) :
    tr = .reset ∨ tr = .tickTimers ∨ tr = .step ∧ ∃ i, Runs s i ∧ Part.dt ∈ writes i := by
  rcases transact_cases tr s with rfl | rfl | hf
  · exact .inl rfl
  · exact .inr (.inr ⟨rfl, stepPort_dt hne⟩)
  · exact .inr (.inl (timer_mem_portWrites (.inl rfl) (not_not.1 fun hp => hne (hf.dt hp))))

theorem transact_st {tr : Transaction} (hne : (transact tr s).1.st ≠ s.st) :
    tr = .reset ∨ tr = .tickTimers ∨ tr = .step ∧ ∃ i, Runs s i ∧ Part.st ∈ writes i := by
  rcases transact_cases tr s with rfl | rfl | hf
  · exact .inl rfl
  · exact .inr (.inr ⟨rfl, stepPort_st hne⟩)
  · exact .inr (.inl (timer_mem_portWrites (.inr rfl) (not_not.1 fun hp => hne (hf.st hp))))

theorem transact_mode {tr : Transaction} (hne : (transact tr s).1.mode ≠ s.mode) :
    tr = .reset ∨ tr = .step ∧ ((∃ x, Runs s (.ldVxK x) ∧ (transact tr s).1.mode = .awaitingKey x) ∨
      ∃ (x : RegIx) (k : RegIx), s.mode = .awaitingKey x ∧ s.keys[k] = true ∧ (transact tr s).1.mode = .running) := by
  rcases transact_cases tr s with rfl | rfl | hf
  · exact .inl rfl
  · exact .inr ⟨rfl, stepPort_mode hne⟩
  · exact absurd (hf.mode (not_mem_portWrites (by simp) tr)) hne

/-- The instructions that write I, as the statement lists them. -/
theorem runs_i (h : ∃ i, Runs s i ∧ Part.i ∈ writes i) :
    (∃ nnn, Runs s (.ldINnn nnn)) ∨ (∃ x, Runs s (.addIVx x)) ∨ ∃ x, Runs s (.ldFVx x) := by
  obtain ⟨i, hruns, hwrites⟩ := h
  rcases i_mem_writes.1 hwrites with ⟨nnn, rfl⟩ | ⟨x, rfl⟩ | ⟨x, rfl⟩
  · exact .inl ⟨nnn, hruns⟩
  · exact .inr (.inl ⟨x, hruns⟩)
  · exact .inr (.inr ⟨x, hruns⟩)

theorem runs_sp (h : ∃ i, Runs s i ∧ Part.sp ∈ writes i) : Runs s .ret ∨ ∃ nnn, Runs s (.callNnn nnn) := by
  obtain ⟨i, hruns, hwrites⟩ := h
  rcases sp_mem_writes.1 hwrites with rfl | ⟨nnn, rfl⟩
  · exact .inl hruns
  · exact .inr ⟨nnn, hruns⟩

theorem runs_dt (h : ∃ i, Runs s i ∧ Part.dt ∈ writes i) : ∃ x, Runs s (.ldDtVx x) := by
  obtain ⟨i, hruns, hwrites⟩ := h
  obtain ⟨x, rfl⟩ := dt_mem_writes.1 hwrites
  exact ⟨x, hruns⟩

theorem runs_st (h : ∃ i, Runs s i ∧ Part.st ∈ writes i) : ∃ x, Runs s (.ldStVx x) := by
  obtain ⟨i, hruns, hwrites⟩ := h
  obtain ⟨x, rfl⟩ := st_mem_writes.1 hwrites
  exact ⟨x, hruns⟩

/-- Settles O60: for each of these parts, the instructions that write it by `writes`, and of the transactions reset, the step that runs one
of them, and the tick and the poll where the statement names them. -/
theorem specialStateHasTheStatedWriters : Obligations.SpecialStateHasTheStatedWriters := by
  refine ⟨fun i s t h => ?_, fun tr s t h => ?_⟩
  · exact ⟨fun hne => i_mem_writes.1 (i_exec h hne), fun hne => dt_mem_writes.1 (dt_exec h hne),
      fun hne => st_mem_writes.1 (st_exec h hne), fun hne => sp_mem_writes.1 (sp_exec h hne), mode_exec h, (frame_exec h).config⟩
  · subst h
    exact ⟨fun hne => (transact_i hne).imp_right (.imp_right runs_i),
      fun hne => (transact_dt hne).imp_right (.imp_right (.imp_right runs_dt)),
      fun hne => (transact_st hne).imp_right (.imp_right (.imp_right runs_st)),
      fun hne => (transact_sp hne).imp_right (.imp_right runs_sp), transact_mode, transact_config tr s⟩

/-! ### The writers of memory -/

/-- A checked store changes a byte its range touches, or none. -/
theorem touches_of_store {base len a : Nat} {bytes : List Byte} (hlen : bytes.length = len)
    (h : withRange s base len (done (s.writeBytes base bytes)) = .next t) (hne : t.byteAt a ≠ s.byteAt a) : Touches base len a := by
  rcases withRange_cases s base len (done (s.writeBytes base bytes)) with ⟨hw, -⟩ | ⟨hw, -⟩ <;> rw [hw] at h
  · rw [done_eq_next] at h
    by_contra hnot
    refine hne ?_
    rw [h]
    exact s.byteAt_writeBytes_of_not_touched base bytes a fun k hk hka => hnot ⟨k, hlen ▸ hk, hka⟩
  · rw [raise_eq_next] at h
    exact absurd ((frame_recordFailure s _).mem (by simp) a) (h ▸ hne)

/-- Fx33 and Fx55 alone change memory, in the bytes they address. -/
theorem byteAt_exec_touches {a : Nat} (h : exec i s = .next t) (hne : t.byteAt a ≠ s.byteAt a) :
    ((∃ x, i = .ldBVx x) ∨ ∃ x, i = .ldIndVx x) ∧ Touches s.i.toNat (accessLength i) a := by
  have hstore := mem_mem_writes.1 (byteAt_exec h hne)
  refine ⟨hstore, ?_⟩
  rcases hstore with ⟨x, rfl⟩ | ⟨x, rfl⟩
  · exact touches_of_store rfl h hne
  · exact touches_of_store (s.regsUpTo_length x) h hne

theorem byteAt_stepPort {a : Nat} (hne : s.stepPort.1.byteAt a ≠ s.byteAt a) :
    (∃ x, Runs s (.ldBVx x) ∧ Touches s.i.toNat 3 a) ∨ ∃ x, Runs s (.ldIndVx x) ∧ Touches s.i.toNat (x.val + 1) a := by
  obtain ⟨i, hruns, h, hne⟩ := State.stepPort_runs (f := (·.byteAt a)) hne rfl (fun _ hf => hf.mem (by simp) a)
    (fun hf => hf.mem (by simp) a)
  obtain ⟨⟨x, rfl⟩ | ⟨x, rfl⟩, htouches⟩ := byteAt_exec_touches h hne
  · exact .inl ⟨x, hruns, htouches⟩
  · exact .inr ⟨x, hruns, htouches⟩

/-- Outside the bytes it copies to, a load leaves memory as it was (decision D17). -/
theorem byteAt_writeBytes_program (s : State) {rom : List Byte} {a : Nat} (hfits : rom.length ≤ 3584)
    (ha : a < 0x200 ∨ 0x200 + rom.length ≤ a) : (s.writeBytes 0x200 rom).byteAt a = s.byteAt a := by
  refine s.byteAt_writeBytes_of_not_touched 0x200 rom a fun k hk => ?_
  rw [physAddr_of_lt (by omega)]
  omega

theorem byteAt_loadPort {rom : List Byte} {a : Nat} (hne : (s.loadPort rom).1.byteAt a ≠ s.byteAt a) :
    rom.length ≤ 3584 ∧ 0x200 ≤ a ∧ a < 0x200 + rom.length := by
  rcases Nat.lt_or_ge 3584 rom.length with hlarge | hfits
  · rw [s.loadPort_of_gt hlarge] at hne
    exact absurd rfl hne
  · rw [s.loadPort_of_le hfits] at hne
    by_contra hout
    exact hne (byteAt_writeBytes_program s hfits (by omega))

/-- Settles O56: the two stores by `writes` and by the range they store to; a step by the instruction it runs; a load by its copy. -/
theorem onlyTheStoresWriteMemory : Obligations.OnlyTheStoresWriteMemory := by
  refine ⟨fun i s t a => byteAt_exec_touches, fun tr s a hne => ?_⟩
  rcases transact_cases tr s with rfl | rfl | hf
  · exact .inl rfl
  · exact .inr (.inr ⟨rfl, byteAt_stepPort hne⟩)
  · obtain ⟨rom, rfl⟩ := mem_mem_portWrites (not_not.1 fun hp => hne (hf.mem hp a))
    exact .inr (.inl ⟨rom, rfl, byteAt_loadPort hne⟩)

end Sys2Proof.Machine
end

section
/-! SUPPORT. The host's ports that write (60_exceptions.md R242, R245, R246, 70_reset_and_hazards.md sections 1 and 2): reset, load, the tick
and the key updates. -/

namespace Sys2Proof.Machine

open Sys2Proof.Safety

variable (s : State)

/-! ### reset -/

theorem State.resetPort_byteAt (a : Nat) : s.resetPort.byteAt a = initialByte s.config a := rfl

/-- Settles O5: no cell is listed after reset, so memory reads as its reset contents, and every other component is the constant of R38. -/
theorem resetLeavesTheStatedState : Obligations.ResetLeavesTheStatedState := by
  refine ⟨fun s => ⟨fun a ha => ?_, fun a ha _ => ?_, fun x => ?_, rfl, rfl, fun j => ?_, rfl, rfl, rfl,
    pixel_clearDisplay, s.resetPort_keys, rfl⟩, rfl, rfl⟩
  · exact (s.resetPort_byteAt a).trans (dif_pos ha)
  · exact (s.resetPort_byteAt a).trans (dif_neg (Nat.not_lt.2 ha))
  · exact Vector.getElem_replicate x.isLt
  · exact Vector.getElem_replicate j.isLt

/-! ### load -/

/-- Settles O7: the run of stores reads back at its own addresses, which do not wrap, and leaves every other byte. -/
theorem loadCopiesTheRomOrRejectsIt : Obligations.LoadCopiesTheRomOrRejectsIt := by
  refine fun s rom => ⟨fun hfits => ?_, s.loadPort_of_gt⟩
  rw [s.loadPort_of_le hfits]
  refine ⟨rfl, fun j hj => ?_, fun a ha => byteAt_writeBytes_program s hfits ha, frame_writeBytes s 0x200 rom⟩
  have hread := s.byteAt_writeBytes 0x200 rom (by omega) j hj
  rwa [physAddr_of_lt (by omega)] at hread

/-- The state with another count of draws. -/
def State.setDraws (n : Nat) : State := { s with draws := n }

/-- A load reads no count of draws. -/
theorem State.setDraws_writeBytes (n base : Nat) (bytes : List Byte) :
    (s.setDraws n).writeBytes base bytes = (s.writeBytes base bytes).setDraws n := by
  induction bytes generalizing s base with
  | nil => rfl
  | cons b rest ih => exact ih (s.memWrite base b) (base + 1)

theorem State.setDraws_loadPort (n : Nat) (rom : List Byte) :
    (s.setDraws n).loadPort rom = ((s.loadPort rom).1.setDraws n, (s.loadPort rom).2) := by
  rcases Nat.lt_or_ge 3584 rom.length with hlarge | hfits
  · rw [State.loadPort_of_gt _ hlarge, State.loadPort_of_gt _ hlarge]
  · rw [State.loadPort_of_le _ hfits, State.loadPort_of_le _ hfits, State.setDraws_writeBytes]

/-- The count of draws is no component of the block. -/
theorem State.setDraws_peekPort (n : Nat) (c : Component) : (s.setDraws n).peekPort c = s.peekPort c := by
  cases c <;> rfl

/-- Under the default parameters reset leaves the state of a new block, but for the count of draws. -/
theorem State.resetPort_eq_setDraws (hconfig : s.config = defaultConfig) : s.resetPort = State.reset.setDraws s.draws := by
  simp only [State.resetPort, State.setDraws, hconfig]
  rfl

/-- Settles O6: the two loaded states differ in the count of draws alone, which a load and peek do not read. -/
theorem resetThenLoadIsANewInstanceLoaded : Obligations.ResetThenLoadIsANewInstanceLoaded := by
  intro s rom hconfig
  rw [s.resetPort_eq_setDraws hconfig, State.setDraws_loadPort]
  exact ⟨rfl, State.setDraws_peekPort _ s.draws⟩

/-! ### The tick -/

theorem countDown_toNat (b : Byte) : (countDown b).toNat = b.toNat - 1 := by
  unfold countDown
  split
  · next hpos =>
    have hle : 1 ≤ b := BitVec.le_def.2 hpos
    exact BitVec.toNat_sub_of_le hle
  · omega

/-- Settles O53: each timer gets its own count down, and the two writes have their frames. -/
theorem tickCountsTimersDownToZero : Obligations.TickCountsTimersDownToZero := by
  intro s
  exact ⟨countDown_toNat s.dt, countDown_toNat s.st, frame_tickTimersPort s⟩

/-! ### The key updates -/

theorem transact_setKey_of_lt {index : Nat} (pressed : Bool) (h : index < 16) :
    transact (.setKey index pressed) s = (s.setKeys (s.keys.set index pressed), .noReply) := by
  simp only [transact, State.setKeyPort, h, dif_pos]

theorem transact_setKey_of_ge {index : Nat} (pressed : Bool) (h : 16 ≤ index) :
    transact (.setKey index pressed) s = (s, .keyRefused) := by
  simp only [transact, State.setKeyPort, Nat.not_lt.2 h, dif_neg, not_false_eq_true]

/-- Settles O55: below 16 one entry is set, from 16 on nothing is, and the bulk update replaces all entries. -/
theorem keysAreSetByTheHost : Obligations.KeysAreSetByTheHost := by
  refine fun s => ⟨fun k pressed => ?_, fun index pressed hge => transact_setKey_of_ge s pressed hge,
    fun keys => ⟨_, rfl, rfl, frame_setKeys s keys⟩⟩
  have hself : (s.keys.set k.val pressed)[k] = pressed := Vector.getElem_set_self k.isLt
  have hother (j : RegIx) (hj : j ≠ k) : (s.keys.set k.val pressed)[j] = s.keys[j] :=
    Vector.getElem_set_ne k.isLt j.isLt fun hkj => hj (Fin.ext hkj.symm)
  exact ⟨_, transact_setKey_of_lt s pressed k.isLt, hself, hother, frame_setKeys s _⟩

end Sys2Proof.Machine
end

section
/-! SUPPORT. The step (40_step.md, 60_exceptions.md sections 1 and 2): the fetch, the one stop, PC after a step, and what a fault leaves. -/

namespace Sys2Proof.Machine

open Sys2Proof.Safety

variable (s : State) {t : State} {i : Instr}

/-! ### Fetch and run -/

/-- Settles O14: no address is out of range, and a read is at its address modulo 4096. -/
theorem fetchUnderWrap12 : Obligations.FetchUnderWrap12 := by
  intro s hwrap
  have hrange : InRange s s.pc.toNat 2 := fun hfault => by simp [hwrap] at hfault
  exact s.fetch_toNat_of_inRange hrange

/-- The branch of `step` in which the fetched word is an instruction. -/
theorem step_of_decode_ok {op : Word} (hm : s.mode = .running) (hf : s.fetch = .ok op) (hd : decode s.config op = .ok i) :
    step s = exec i s.advancePc := by
  simp only [step, hm, hf, hd]

/-- Settles O12: in range the fetch reads the two bytes, and the rest is the branch of `step` for an instruction. -/
theorem stepRunsTheDecodedInstruction : Obligations.StepRunsTheDecodedInstruction := by
  intro s i hm hrange hd
  exact step_of_decode_ok s hm (s.fetch_of_inRange hrange) hd

/-! ### The one stop (R102) -/

theorem State.fetch_eq_error (a : Nat) :
    s.fetch = .error a ↔ s.config.addrPolicy = .fault ∧ 0xFFF ≤ s.pc.toNat ∧ a = max s.pc.toNat 0x1000 := by
  constructor
  · intro hf
    have hnot : ¬ InRange s s.pc.toNat 2 := fun hin => by simp [s.fetch_of_inRange hin] at hf
    obtain ⟨hp, hpc⟩ := Classical.not_imp.1 hnot
    have hge : 0xFFF ≤ s.pc.toNat := by omega
    rw [s.fetch_of_outOfRange hp hge] at hf
    exact ⟨hp, hge, by simpa [eq_comm] using hf⟩
  · rintro ⟨hp, hge, rfl⟩
    exact s.fetch_of_outOfRange hp hge

/-- An instruction has a next state, whatever it reports. -/
theorem exists_next_of_exec (i : Instr) : ∃ t, exec i s = .next t := by
  rcases exec_cases s i with ⟨u, hu⟩ | ⟨r, hr, -⟩
  · exact ⟨_, hu⟩
  · exact ⟨_, hr⟩

theorem exists_next_of_keywaitPoll (x : RegIx) : ∃ t, keywaitPoll x s = .next t := by
  rcases keywaitPoll_cases s x with ⟨k, -, -, hpoll⟩ | ⟨-, hpoll⟩
  · exact ⟨_, hpoll⟩
  · exact ⟨_, hpoll⟩

/-- A step has a next state, or it is the fetch fault. -/
theorem step_next_or_fault :
    (∃ t, step s = .next t) ∨ s.mode = .running ∧ ∃ a, s.fetch = .error a ∧ step s = .fault (.addressOutOfRange a) := by
  rcases step_cases s with ⟨x, -, hs⟩ | hfault | ⟨-, op, e, -, -, hs⟩ | ⟨-, op, i, -, -, hs⟩
  · exact .inl (hs ▸ exists_next_of_keywaitPoll s x)
  · exact .inr hfault
  · exact .inl ⟨_, hs⟩
  · exact .inl (hs ▸ exists_next_of_exec s.advancePc i)

theorem step_of_fetch_error {a : Nat} (hm : s.mode = .running) (hf : s.fetch = .error a) :
    step s = .fault (.addressOutOfRange a) := by
  simp only [step, hm, hf]

theorem step_eq_fault (f : Fault) :
    step s = .fault f ↔ s.mode = .running ∧ ∃ a, s.fetch = .error a ∧ f = .addressOutOfRange a := by
  constructor
  · intro h
    rcases step_next_or_fault s with ⟨t, ht⟩ | ⟨hm, a, hf, hs⟩
    · simp [ht] at h
    · exact ⟨hm, a, hf, by simpa [hs, eq_comm] using h⟩
  · rintro ⟨hm, a, hf, rfl⟩
    exact step_of_fetch_error s hm hf

/-- Settles O15: the fetch fault is the one outcome without a next state, and its range check fails exactly as stated. -/
theorem stepStopsOnlyOnAFetchOutOfRange : Obligations.StepStopsOnlyOnAFetchOutOfRange := by
  refine fun s => ⟨fun f => ?_, fun r hrefused => ?_⟩
  · rw [step_eq_fault]
    simp only [State.fetch_eq_error]
    constructor
    · rintro ⟨hm, a, ⟨hp, hge, rfl⟩, rfl⟩
      exact ⟨hm, hp, hge, rfl⟩
    · rintro ⟨hm, hp, hge, rfl⟩
      exact ⟨hm, _, ⟨hp, hge, rfl⟩, rfl⟩
  · rcases step_next_or_fault s with ⟨t, ht⟩ | ⟨-, a, -, hs⟩
    · simp [ht] at hrefused
    · simp [hs] at hrefused

/-! ### What a fault leaves (R237) -/

/-- Settles O18: of a step's branches only a raised fault reports one, and it records that on the advanced state; a fetch fault at the port
records it on the state as it was. -/
theorem aFaultingStepChangesOnlyPc : Obligations.AFaultingStepChangesOnlyPc := by
  refine ⟨fun s t h hfault => ?_, fun s hm hp hge => ?_⟩
  · rcases step_cases s with ⟨x, -, hs⟩ | ⟨-, a, -, hs⟩ | ⟨-, op, e, -, -, hs⟩ | ⟨hm, op, i, -, -, hs⟩ <;> rw [hs] at h
    · rcases keywaitPoll_result s h with hr | hr <;> simp [hr, Result.isFault] at hfault
    · cases h
    · rw [unknownOpcode_eq_next] at h
      simp [h, Result.isFault] at hfault
    · refine ⟨hm, (exec_raises s.advancePc h fun hr => ?_).2⟩
      simp [hr, Result.isFault] at hfault
  · have hstep := step_of_fetch_error s hm (s.fetch_of_outOfRange hp hge)
    exact ⟨_, s.stepPort_of_fault _ hstep, frame_recordFailure s _⟩

/-! ### PC after a step (R104) -/

/-- A step that fetched and does not report `Ok` has advanced PC and done no more with it. -/
theorem pc_step_of_result_ne_ok {op : Word} (hm : s.mode = .running) (hf : s.fetch = .ok op) (h : step s = .next t)
    (hr : t.result ≠ .ok) : t.pc = s.pc + 2 := by
  cases hd : decode s.config op with
  | error e =>
    rw [step_of_decode_error s hm hf hd, unknownOpcode_eq_next] at h
    rw [h]; rfl
  | ok i =>
    rw [step_of_decode_ok s hm hf hd] at h
    exact (frame_exec_of_result_ne_ok s.advancePc h hr).pc (by simp)

/-- A step that fetched and reports `Ok` has run an instruction, which put PC where `nextPc` says. -/
theorem runs_of_result_ok {op : Word} (hm : s.mode = .running) (hf : s.fetch = .ok op) (h : step s = .next t)
    (hr : t.result = .ok) :
    ∃ i, decode s.config op = .ok i ∧ exec i s.advancePc = .next t ∧ t.pc = nextPc i s.advancePc := by
  cases hd : decode s.config op with
  | error e =>
    rw [step_of_decode_error s hm hf hd, unknownOpcode_eq_next] at h
    simp [h] at hr
  | ok i =>
    rw [step_of_decode_ok s hm hf hd] at h
    exact ⟨i, rfl, h, pc_exec_of_ok h hr⟩

/-- A skip after the advance of the fetch, on a condition that means `P`: PC plus 4 when it is taken. -/
theorem pc_of_skip_if {taken : Bool} {P : Prop} [Decidable P] (h : t.pc = (s.advancePc.skipIf taken).pc)
    (hP : taken = true ↔ P) : t.pc = if P then s.pc + 4 else s.pc + 2 := by
  rw [h, State.skipIf_pc, State.advancePc_pc, BitVec.add_assoc]
  exact if_congr hP rfl rfl

/-- The same for a condition that means that `P` fails. -/
theorem pc_of_skip_unless {taken : Bool} {P : Prop} [Decidable P] (h : t.pc = (s.advancePc.skipIf taken).pc)
    (hP : taken = true ↔ ¬ P) : t.pc = if P then s.pc + 2 else s.pc + 4 := by
  rw [pc_of_skip_if s h hP, ite_not]

/-- Settles O17: PC by `nextPc` of the state after the fetch's advance. -/
theorem pcAfterAStep : Obligations.PcAfterAStep := by
  refine fun s t op hm hf h => ⟨pc_step_of_result_ne_ok s hm hf h, fun hr => ?_⟩
  obtain ⟨i, hd, hexec, hpc⟩ := runs_of_result_ok s hm hf h hr
  refine ⟨i, hd, ?_⟩
  cases i
  case ret => exact ⟨sp_pos_of_exec_ret (s := s.advancePc) hexec hr, hpc⟩
  case jpNnn nnn | callNnn nnn => exact (congrArg BitVec.toNat hpc).trans (zextAddr_toNat nnn)
  case jpV0Nnn nnn => exact (congrArg BitVec.toNat hpc).trans (zextAddr_add_zext16_toNat nnn s.v[0])
  case seVxKk x kk => exact pc_of_skip_if s hpc beq_iff_eq
  case sneVxKk x kk => exact pc_of_skip_unless s hpc bne_iff_ne
  case seVxVy x y => exact pc_of_skip_if s hpc beq_iff_eq
  case sneVxVy x y => exact pc_of_skip_unless s hpc bne_iff_ne
  case skpVx x =>
    have hkey : s.v[x].toNat < 16 := lt_of_exec_keySkip (s := s.advancePc) (.inl rfl) hexec hr
    have hdown : s.advancePc.keyState s.advancePc.v[x] = some s.keys[s.v[x].toNat] := s.advancePc.keyState_of_lt hkey
    refine ⟨hkey, pc_of_skip_if s hpc ?_⟩
    rw [hdown, beq_iff_eq, Option.some_inj]
  case sknpVx x =>
    have hkey : s.v[x].toNat < 16 := lt_of_exec_keySkip (s := s.advancePc) (.inr rfl) hexec hr
    have hdown : s.advancePc.keyState s.advancePc.v[x] = some s.keys[s.v[x].toNat] := s.advancePc.keyState_of_lt hkey
    refine ⟨hkey, pc_of_skip_unless s hpc ?_⟩
    rw [hdown, beq_iff_eq, Option.some_inj, Bool.not_eq_true]
  all_goals exact hpc

/-! ### Which faults an instruction raises (R233, R234) -/

theorem raisesFor_addressOutOfRange (i : Instr) (a : Nat) : RaisesFor i s (.addressOutOfRange a) ↔
    s.config.addrPolicy = .fault ∧ 0 < accessLength i ∧ 0x1000 < s.i.toNat + accessLength i ∧ a = max s.i.toNat 0x1000 := by
  simp only [RaisesFor, Result.addressOutOfRange.injEq, reduceCtorEq, false_and, false_or, exists_false, or_false]
  tauto

theorem raisesFor_keyIndexOutOfRange (i : Instr) (k : Byte) : RaisesFor i s (.keyIndexOutOfRange k) ↔
    ∃ x : RegIx, (i = .skpVx x ∨ i = .sknpVx x) ∧ k = s.v[x] ∧ 15 < s.v[x].toNat := by
  simp only [RaisesFor, Result.keyIndexOutOfRange.injEq, reduceCtorEq, false_and, false_or]
  exact exists_congr fun x => by tauto

/-- An instruction that accesses memory through I checks its range and then runs. -/
theorem exec_eq_withRange (h : 0 < accessLength i) :
    ∃ u, exec i s = withRange s s.i.toNat (accessLength i) (done u) := by
  cases i
  case drwVxVyN | ldBVx | ldIndVx | ldVxInd => exact ⟨_, rfl⟩
  all_goals exact absurd h (Nat.lt_irrefl 0)

variable {s}

theorem exec_addressOutOfRange_iff {a : Nat} (h : exec i s = .next t) : t.result = .addressOutOfRange a ↔
    s.config.addrPolicy = .fault ∧ 0 < accessLength i ∧ 0x1000 < s.i.toNat + accessLength i ∧ a = max s.i.toNat 0x1000 := by
  constructor
  · intro hr
    obtain ⟨hraises, -⟩ := exec_raises s h (by simp [hr])
    exact (raisesFor_addressOutOfRange s i a).1 (hr ▸ hraises)
  · rintro ⟨hp, hlen, hout, rfl⟩
    obtain ⟨u, hu⟩ := exec_eq_withRange s hlen
    rw [hu, withRange_of_outOfRange s _ hp hlen hout, raise_eq_next] at h
    rw [h, State.recordFailure_result]

theorem exec_keyIndexOutOfRange_iff {k : Byte} (h : exec i s = .next t) : t.result = .keyIndexOutOfRange k ↔
    ∃ x : RegIx, (i = .skpVx x ∨ i = .sknpVx x) ∧ k = s.v[x] ∧ 15 < s.v[x].toNat := by
  constructor
  · intro hr
    obtain ⟨hraises, -⟩ := exec_raises s h (by simp [hr])
    exact (raisesFor_keyIndexOutOfRange s i k).1 (hr ▸ hraises)
  · rintro ⟨x, hi, rfl, hkey⟩
    rw [exec_keySkip_of_ge s hi hkey, raise_eq_next] at h
    rw [h, State.recordFailure_result]

/-- Settles O20: the fault is raised for the reason RaisesFor states, and an instruction with that reason does raise it. -/
theorem addressFaultsAreRaisedExactlyWhenStated : Obligations.AddressFaultsAreRaisedExactlyWhenStated := by
  intro i s t a h
  exact ⟨exec_addressOutOfRange_iff h, fun hr => frame_exec_of_result_ne_ok s h (by simp [hr])⟩

/-- Settles O21: the fault is raised for the reason RaisesFor states, and both skips raise it at that register value. -/
theorem keyFaultsAreRaisedExactlyWhenStated : Obligations.KeyFaultsAreRaisedExactlyWhenStated := by
  intro i s t k h
  exact ⟨exec_keyIndexOutOfRange_iff h, fun hr => frame_exec_of_result_ne_ok s h (by simp [hr])⟩

end Sys2Proof.Machine
end

section
/-! SUPPORT. 00EE and Bnnn (41_flow.md R120, R127), and a call undone by its return (R129). -/

namespace Sys2Proof.Machine

open Sys2Proof.Safety

/-- Settles O22: with an entry live the pop lowers SP and the jump writes PC, and at SP = 0 there is no pop. -/
theorem returnPopsTheTopEntry : Obligations.ReturnPopsTheTopEntry := by
  refine fun s => ⟨fun hsp => ?_, fun hempty => ⟨_, exec_ret_of_empty s hempty, rfl, frame_recordFailure s _⟩⟩
  have hexec := exec_ret_of_pos s hsp
  exact ⟨_, hexec, rfl, rfl, Nat.succ_pred_eq_of_pos hsp, frame_exec_of_ok hexec rfl⟩

/-- Settles O27: the jump writes PC alone, and the sum fits in 16 bits. -/
theorem jumpWithOffsetAddsV0 : Obligations.JumpWithOffsetAddsV0 := by
  intro nnn s
  exact ⟨_, rfl, rfl, zextAddr_add_zext16_toNat nnn s.v[0], (frame_setPc s _).done rfl⟩

/-- Settles O28: the call leaves the advanced PC in the entry below its SP, which is the entry the return pops. -/
theorem returnUndoesACall : Obligations.ReturnUndoesACall := by
  intro nnn s t u h hr hsp hstack
  have hroom := sp_lt_of_exec_callNnn h hr
  rw [exec_callNnn_of_lt s nnn hroom, done_eq_next] at h
  have husp : u.sp.val = s.sp.val + 1 := by rw [hsp, h]; rfl
  have hustack : u.stack = s.stack.set s.sp.val s.pc := by rw [hstack, h]; rfl
  refine ⟨_, exec_ret_of_pos u (by omega), rfl, ?_, ?_⟩
  · show u.stack[u.sp.val - 1] = s.pc
    simp [husp, hustack]
  · exact Fin.ext (show u.sp.val - 1 = s.sp.val by omega)

end Sys2Proof.Machine
end

section
/-! SUPPORT. The register instructions of family 8 and the random draw (42_alu.md sections 3 and 4), and Fx1E (43_index_memory.md R171). -/

namespace Sys2Proof.Machine

open Sys2Proof.Safety

/-- Settles O31: each of the four ends in one write of Vx, and the bitwise operations act on each bit by itself. -/
theorem copyAndLogicWriteVxAlone : Obligations.CopyAndLogicWriteVxAlone := by
  refine fun x y s => ⟨setV_completes s x rfl, ?_, ?_, ?_⟩
  · obtain ⟨t, ht, hok, hv, hframe⟩ := setV_completes s x (i := .orVxVy x y) rfl
    exact ⟨t, ht, hok, fun b _ => by rw [hv]; exact BitVec.getLsbD_or, hframe⟩
  · obtain ⟨t, ht, hok, hv, hframe⟩ := setV_completes s x (i := .andVxVy x y) rfl
    exact ⟨t, ht, hok, fun b _ => by rw [hv]; exact BitVec.getLsbD_and, hframe⟩
  · obtain ⟨t, ht, hok, hv, hframe⟩ := setV_completes s x (i := .xorVxVy x y) rfl
    exact ⟨t, ht, hok, fun b _ => by rw [hv]; exact BitVec.getLsbD_xor, hframe⟩

/-- An instruction that writes a result and then a flag completes: VF holds the flag, Vx the result unless it is VF itself, and nothing else
changes (42_alu.md R152, decision D5). -/
theorem setResultThenFlag_completes (s : State) (x : RegIx) {i : Instr} {result : Byte} {flag : Bool}
    (hi : exec i s = done (s.setResultThenFlag x result flag)) :
    ∃ t, exec i s = .next t ∧ t.result = .ok ∧ t.v[vf].toNat = (if flag = true then 1 else 0) ∧
      (x ≠ vf → t.v[x] = result) ∧ Frame [.v x, .v vf] s t := by
  refine ⟨_, hi, State.report_result _ _, ?_, fun hx => ?_, (frame_setResultThenFlag s x result flag).done rfl⟩
  · have hvf := s.setResultThenFlag_get x result flag 15 (by decide)
    exact (congrArg BitVec.toNat hvf).trans (flagByte_toNat flag)
  · have hne : x.val ≠ 15 := fun h => hx (Fin.ext h)
    refine (s.setResultThenFlag_get x result flag x.val x.isLt).trans ?_
    rw [if_neg hne, if_pos rfl]

/-- Settles O32: the carry is decided, and the sum taken, on the operands before either write. -/
theorem addSetsSumAndCarry : Obligations.AddSetsSumAndCarry := by
  intro x y s
  obtain ⟨t, ht, hok, hflag, hv, hframe⟩ := setResultThenFlag_completes s x (i := .addVxVy x y) rfl
  have hcarry := hflag.trans (if_congr (carryFlag_iff _ _) rfl rfl)
  refine ⟨fun c => decode_encode c (.addVxVy x y) rfl, t, ht, hok, hcarry, fun hx => ?_, hframe⟩
  rw [hv hx]
  exact sumByte_toNat _ _

/-- Settles O33: both instructions write a difference and the flag that its second operand does not exceed the first. -/
theorem subtractSetsDifferenceAndNotBorrow : Obligations.SubtractSetsDifferenceAndNotBorrow := by
  refine fun x y s => ⟨fun c => ⟨decode_encode c (.subVxVy x y) rfl, decode_encode c (.subnVxVy x y) rfl⟩, ?_, ?_⟩
  · obtain ⟨t, ht, hok, hflag, hv, hframe⟩ := setResultThenFlag_completes s x (i := .subVxVy x y) rfl
    refine ⟨t, ht, hok, hflag.trans (if_congr (notBorrowFlag_iff _ _) rfl rfl), fun hx => ?_, hframe⟩
    rw [hv hx]
    exact diffByte_toNat _ _
  · obtain ⟨t, ht, hok, hflag, hv, hframe⟩ := setResultThenFlag_completes s x (i := .subnVxVy x y) rfl
    refine ⟨t, ht, hok, hflag.trans (if_congr (notBorrowFlag_iff _ _) rfl rfl), fun hx => ?_, hframe⟩
    rw [hv hx]
    exact diffByte_toNat _ _

/-- The bit SHR shifts out, as a number. -/
theorem bit0Flag_toNat (a : Byte) : (if bit0Flag a = true then 1 else 0) = a.toNat % 2 := by
  rw [bit0Flag_eq]
  split <;> simp_all

/-- The bit SHL shifts out, as a number. -/
theorem bit7Flag_toNat (a : Byte) : (if bit7Flag a = true then 1 else 0) = a.toNat / 128 := by
  have hlt : a.toNat < 256 := a.isLt
  simp only [bit7Flag_eq, decide_eq_true_eq]
  split <;> omega

/-- Settles O34: neither shift reads y, and each writes half or twice the old Vx and the bit that falls out. -/
theorem shiftsSetResultAndBitShiftedOut : Obligations.ShiftsSetResultAndBitShiftedOut := by
  refine fun x y s => ⟨fun c => ⟨decode_encode c (.shrVx x y) rfl, decode_encode c (.shlVx x y) rfl⟩,
    fun _ => ⟨rfl, rfl⟩, ?_, ?_⟩
  · obtain ⟨t, ht, hok, hflag, hv, hframe⟩ := setResultThenFlag_completes s x (i := .shrVx x y) rfl
    refine ⟨t, ht, hok, hflag.trans (bit0Flag_toNat _), fun hx => ?_, hframe⟩
    rw [hv hx]
    exact shiftRightByte_toNat _
  · obtain ⟨t, ht, hok, hflag, hv, hframe⟩ := setResultThenFlag_completes s x (i := .shlVx x y) rfl
    refine ⟨t, ht, hok, hflag.trans (bit7Flag_toNat _), fun hx => ?_, hframe⟩
    rw [hv hx]
    exact shiftLeftByte_toNat _

/-- Settles O35: the draw is the free value at the count before, and the instruction counts it and writes Vx. -/
theorem randomIsADrawMasked : Obligations.RandomIsADrawMasked := by
  intro x kk s
  refine ⟨_, rfl, rfl, fun b _ => ?_, rfl, frame_exec_of_ok (i := .rndVxKk x kk) rfl rfl⟩
  exact (congrArg (BitVec.getLsbD · b) (s.countDraw.setV_get_self x _)).trans BitVec.getLsbD_and

/-- Settles O37: the one write of I, of the sum modulo 65536. -/
theorem addIndexWrapsAtSixteenBits : Obligations.AddIndexWrapsAtSixteenBits := by
  intro x s
  obtain ⟨t, ht, hok, hi, hframe⟩ := setI_completes s (i := .addIVx x) rfl
  refine ⟨t, ht, hok, ?_, hframe⟩
  rw [hi, BitVec.toNat_add, zext16_toNat]
  rfl

end Sys2Proof.Machine
end

section
/-! SUPPORT. The memory transfers through I (43_index_memory.md R173-R176): what they leave in memory and in the registers when their range
is in bounds, and the fault when it is not. -/

namespace Sys2Proof.Machine

open Sys2Proof.Safety

variable (s : State)

/-- A checked instruction whose range is out of bounds raises the address fault and writes nothing. -/
theorem faults_of_outOfRange {i : Instr} (hp : s.config.addrPolicy = .fault) (hlen : 0 < accessLength i)
    (hout : 0x1000 < s.i.toNat + accessLength i) :
    ∃ t, exec i s = .next t ∧ t.result = .addressOutOfRange (max s.i.toNat 0x1000) ∧ Frame [.failure] s t := by
  obtain ⟨u, hu⟩ := exec_eq_withRange s hlen
  rw [hu, withRange_of_outOfRange s _ hp hlen hout]
  exact ⟨_, rfl, rfl, frame_recordFailure s _⟩

/-- A checked store whose range is in bounds completes: the bytes stand where it put them, every other byte and every other part of the state
is as before. -/
theorem store_completes {i : Instr} {base : Nat} {bytes : List Byte} (hi : exec i s = withRange s base bytes.length
    (done (s.writeBytes base bytes))) (hin : InRange s base bytes.length) (hlen : bytes.length ≤ 4096) :
    ∃ t, exec i s = .next t ∧ t.result = .ok ∧
      (∀ k, (hk : k < bytes.length) → t.byteAt (physAddr (base + k)) = bytes[k]) ∧
      (∀ a, ¬ Touches base bytes.length a → t.byteAt a = s.byteAt a) ∧ Frame [.mem] s t := by
  refine ⟨_, hi.trans (withRange_of_inRange s _ (.inr hin)), rfl, s.byteAt_writeBytes base bytes hlen, fun a ha => ?_,
    (frame_writeBytes s base bytes).done rfl⟩
  exact s.byteAt_writeBytes_of_not_touched base bytes a fun k hk hka => ha ⟨k, hk, hka⟩

/-- A digit is below 256, so the byte that holds it has its value. -/
theorem digit_toNat {n : Nat} (h : n < 256) : (BitVec.ofNat 8 n).toNat = n := by
  rw [BitVec.toNat_ofNat]
  exact Nat.mod_eq_of_lt h

/-- Settles O39: the store of the three digit bytes, each of which holds its digit. -/
theorem decimalDigitsAreStored : Obligations.DecimalDigitsAreStored := by
  refine fun x s => ⟨fun c => decode_encode c (.ldBVx x) rfl, fun hin => ?_,
    fun hp hout => faults_of_outOfRange s hp (i := .ldBVx x) (Nat.succ_pos 2) (Nat.lt_succ_of_le hout)⟩
  have hlen : (bcdDigits s.v[x]).length = 3 := rfl
  obtain ⟨t, ht, hok, hbytes, hrest, hframe⟩ := store_completes s (i := .ldBVx x) (bytes := bcdDigits s.v[x]) rfl hin (by omega)
  have hlt : s.v[x].toNat < 256 := s.v[x].isLt
  refine ⟨t, ht, hok, ?_, ?_, ?_, hrest, hframe⟩
  · exact (congrArg BitVec.toNat (hbytes 0 (by omega))).trans (digit_toNat (by omega))
  · exact (congrArg BitVec.toNat (hbytes 1 (by omega))).trans (digit_toNat (by omega))
  · exact (congrArg BitVec.toNat (hbytes 2 (by omega))).trans (digit_toNat (by omega))

/-- Settles O40: the store of the list of V0 to Vx. -/
theorem registersAreStored : Obligations.RegistersAreStored := by
  refine fun x s => ⟨fun c => decode_encode c (.ldIndVx x) rfl, fun hin => ?_,
    fun hp hout => faults_of_outOfRange s hp (i := .ldIndVx x) (Nat.succ_pos x.val) (Nat.lt_succ_of_le hout)⟩
  have hlen := s.regsUpTo_length x
  have hexec : exec (.ldIndVx x) s = withRange s s.i.toNat (s.regsUpTo x).length (done (s.writeBytes s.i.toNat (s.regsUpTo x))) := by
    rw [hlen]; rfl
  obtain ⟨t, ht, hok, hbytes, hrest, hframe⟩ := store_completes s hexec (hlen ▸ hin) (by omega)
  refine ⟨t, ht, hok, fun k hk => ?_, hlen ▸ hrest, hframe⟩
  have hk' : k.val < (s.regsUpTo x).length := hlen ▸ Nat.lt_succ_of_le hk
  exact (hbytes k.val hk').trans (s.regsUpTo_get x k.val hk')

/-- Settles O41: the load of the list of bytes at I to I + x, in the registers up to x. -/
theorem registersAreLoaded : Obligations.RegistersAreLoaded := by
  refine fun x s => ⟨fun c => decode_encode c (.ldVxInd x) rfl, fun hin => ?_,
    fun hp hout => faults_of_outOfRange s hp (i := .ldVxInd x) (Nat.succ_pos x.val) (Nat.lt_succ_of_le hout)⟩
  have hexec : exec (.ldVxInd x) s = done (s.setRegs (s.readBytes s.i.toNat (x.val + 1))) := withRange_of_inRange s _ (.inr hin)
  refine ⟨_, hexec, rfl, fun k hk => ?_, frame_exec_of_ok hexec rfl⟩
  refine (loadRegs_get s.v 0 _ k.val k.isLt).trans ?_
  rw [dif_pos ⟨Nat.zero_le _, by simpa using Nat.lt_succ_of_le hk⟩]
  simp [State.memRead]

variable {s} {t : State} {i : Instr}

/-- An instruction that reports `Ok` had its range in bounds. -/
theorem inRange_of_exec_ok (h : exec i s = .next t) (hr : t.result = .ok) (hlen : 0 < accessLength i) :
    InRange s s.i.toNat (accessLength i) := by
  intro hp
  by_contra hout
  have hfault := (exec_addressOutOfRange_iff h).2 ⟨hp, hlen, Nat.lt_of_not_le hout, rfl⟩
  simp [hr] at hfault

/-- The range check looks at the parameters alone. -/
theorem inRange_congr {u : State} {base len : Nat} (hconfig : u.config = s.config) (h : InRange s base len) : InRange u base len :=
  fun hp => h (hconfig ▸ hp)

/-- Settles O42: the load reads, at the addresses the store wrote, the bytes of V0 to Vx that still stand there. -/
theorem dumpThenLoadRestoresRegisters : Obligations.DumpThenLoadRestoresRegisters := by
  intro x s t u h hr hi hconfig hkept
  have hin : InRange s s.i.toNat (x.val + 1) := inRange_of_exec_ok h hr (Nat.succ_pos x.val)
  obtain ⟨-, hstore, -⟩ := registersAreStored x s
  obtain ⟨t', ht', -, hbytes, -⟩ := hstore hin
  cases h.symm.trans ht'
  obtain ⟨-, hload, -⟩ := registersAreLoaded x u
  obtain ⟨w, hw, hok, hregs, -⟩ := hload (hi ▸ inRange_congr hconfig hin)
  refine ⟨w, hw, hok, fun k hk => ?_⟩
  rw [hregs k hk, hi, hkept _ ⟨k.val, Nat.lt_succ_of_le hk, rfl⟩, hbytes k hk]

end Sys2Proof.Machine
end

section
/-! SUPPORT. The timer and keypad instructions (45_timers_keypad.md R210-R216). -/

namespace Sys2Proof.Machine

open Sys2Proof.Safety

/-- Settles O47: the one write of the delay timer to Vx. -/
theorem readDelayTimerSetsVx : Obligations.ReadDelayTimerSetsVx := by
  intro x s
  exact ⟨fun c => decode_encode c (.ldVxDt x) rfl, setV_completes s x rfl⟩

/-- Settles O48: one write of a timer each. -/
theorem timersAreSetFromVx : Obligations.TimersAreSetFromVx := by
  intro x s
  exact ⟨⟨_, rfl, rfl, rfl, (frame_setDt s _).done rfl⟩, ⟨_, rfl, rfl, rfl, (frame_setSt s _).done rfl⟩⟩

/-- Settles O50: the one write of the wait state. -/
theorem keyWaitBegins : Obligations.KeyWaitBegins := by
  intro x s
  exact ⟨_, rfl, rfl, rfl, (frame_setMode s _).done rfl⟩

/-- Settles O49: below 16 both instructions are skips on the key state, above 15 both raise the fault. -/
theorem skipsOnAKey : Obligations.SkipsOnAKey := by
  refine fun x s => ⟨fun hkey => ⟨?_, ?_⟩, fun hkey => ⟨?_, ?_⟩⟩
  · exact skip_completes s (exec_skpVx_of_lt s hkey) Iff.rfl
  · exact skip_completes s (exec_sknpVx_of_lt s hkey) (by rw [Bool.not_eq_true'])
  · exact ⟨_, exec_keySkip_of_ge s (.inl rfl) hkey, rfl, frame_recordFailure s _⟩
  · exact ⟨_, exec_keySkip_of_ge s (.inr rfl) hkey, rfl, frame_recordFailure s _⟩

/-- The least key that is down is the only one with no lower key down. -/
theorem leastKey_unique {keys : Vector Bool 16} {j k : RegIx} (hj : keys[j] = true) (hjleast : ∀ l : RegIx, l < j → keys[l] = false)
    (hk : keys[k] = true) (hkleast : ∀ l : RegIx, l < k → keys[l] = false) : j = k := by
  refine le_antisymm (not_lt.1 fun hkj => ?_) (not_lt.1 fun hjk => ?_)
  · simp [hjleast k hkj] at hk
  · simp [hkleast j hjk] at hj

theorem step_of_awaitingKey {s : State} {x : RegIx} (hm : s.mode = .awaitingKey x) : step s = keywaitPoll x s := by
  simp only [step, hm]

/-- Settles O51: the poll finds the least key down, or none is down, and each of its two ends has its frame. -/
theorem keyWaitPollsAndEnds : Obligations.KeyWaitPollsAndEnds := by
  intro x s hm
  rw [step_of_awaitingKey hm]
  rcases keywaitPoll_cases s x with ⟨j, hj, hjleast, hpoll⟩ | ⟨hup, hpoll⟩
  · refine ⟨fun k hk hkleast => ?_, fun hup => by simp [hup j] at hj⟩
    obtain rfl := leastKey_unique hj hjleast hk hkleast
    have hv : ((s.setV x (BitVec.ofNat 8 j.val)).v[x]).toNat = j.val := by
      rw [s.setV_get_self]
      exact digit_toNat (by omega)
    exact ⟨_, hpoll, rfl, hv, rfl, ((frame_setV s x _).trans (frame_setMode _ _)).done rfl⟩
  · exact ⟨fun k hk => by simp [hup k] at hk, fun _ => ⟨_, hpoll, rfl, frame_report s _⟩⟩

end Sys2Proof.Machine
end

section
/-! SUPPORT. Dxyn (44_display.md R191-R196): the pixels a plot turns over, and the collision flag. A plot is built up bit by bit and row by
row; since no two bits of a sprite land on one pixel, each turns its own pixel over once and sees it as it was before the plot. -/

namespace Sys2Proof.Machine

open Sys2Proof.Safety

/-! ### Pixels turned over -/

/-- From plot `p` to plot `q`: the pixels of `S` and no others are turned over, and the hit is recorded exactly when one of them was lit. -/
structure TurnsOver (S : Nat → Nat → Prop) (p q : Plot) : Prop where
  bounds : ∀ r c, S r c → r < 32 ∧ c < 64
  turned : ∀ r < 32, ∀ c < 64, pixel q.disp r c ≠ pixel p.disp r c ↔ S r c
  hit : q.hit = true ↔ p.hit = true ∨ ∃ r c, S r c ∧ pixel p.disp r c = true

variable {S T : Nat → Nat → Prop} {p q u : Plot}

theorem TurnsOver.refl (p : Plot) : TurnsOver (fun _ _ => False) p p where
  bounds := by simp
  turned := by simp
  hit := by simp

theorem TurnsOver.congr (h : TurnsOver S p q) (hST : ∀ r c, S r c ↔ T r c) : TurnsOver T p q := by
  obtain rfl : S = T := funext fun r => funext fun c => propext (hST r c)
  exact h

/-- A pixel outside the set is as it was. -/
theorem TurnsOver.pixel_eq (h : TurnsOver S p q) {r c : Nat} (hr : r < 32) (hc : c < 64) (hS : ¬ S r c) :
    pixel q.disp r c = pixel p.disp r c :=
  not_not.1 fun hne => hS ((h.turned r hr c hc).1 hne)

/-- One plot after another, on other pixels. -/
theorem TurnsOver.trans (h : TurnsOver S p q) (k : TurnsOver T q u) (hdisjoint : ∀ r c, S r c → ¬ T r c) :
    TurnsOver (fun r c => S r c ∨ T r c) p u where
  bounds r c hST := hST.elim (h.bounds r c) (k.bounds r c)
  turned r hr c hc := by
    rw [← h.turned r hr c hc, ← k.turned r hr c hc]
    have hnot := hdisjoint r c
    rw [← h.turned r hr c hc, ← k.turned r hr c hc] at hnot
    grind
  hit := by
    have hsame (r c : Nat) (hT : T r c) : pixel q.disp r c = pixel p.disp r c :=
      h.pixel_eq (k.bounds r c hT).1 (k.bounds r c hT).2 fun hS => hdisjoint r c hS hT
    rw [k.hit, h.hit]
    grind

/-! ### A bit, a row, a sprite -/

/-- A plotted bit turns over the pixel it lands on (R194). -/
theorem plotBit_turnsOver (p : Plot) (r c : Nat) : TurnsOver (fun r' c' => r' = r % 32 ∧ c' = c % 64) p (plotBit p r c) where
  bounds := by
    rintro r' c' ⟨rfl, rfl⟩
    exact ⟨Nat.mod_lt _ (by decide), Nat.mod_lt _ (by decide)⟩
  turned r' hr c' hc := by
    rw [pixel_plotBit, Nat.mod_eq_of_lt hr, Nat.mod_eq_of_lt hc]
    cases pixel p.disp r' c' <;> simp
  hit := by
    have hwrap : pixel p.disp (r % 32) (c % 64) = pixel p.disp r c := by simp [pixel]
    simp [plotBit_hit, hwrap]

/-- Bit `7 - dc` of a row byte is 1 and lands in column `c`, for one of the first `count` columns (R192). -/
def RowBit (b : Byte) (cx count c : Nat) : Prop := ∃ dc < count, b.getLsbD (7 - dc) = true ∧ c = (cx + dc) % 64

theorem rowBit_succ (b : Byte) (cx count c : Nat) :
    RowBit b cx (count + 1) c ↔ RowBit b cx count c ∨ b.getLsbD (7 - count) = true ∧ c = (cx + count) % 64 := by
  simp only [RowBit, Nat.lt_succ_iff_lt_or_eq, or_and_right, exists_or, exists_eq_left]

/-- The first `count` columns of a row, of at most 8: they land in different columns. -/
theorem plotRow_columns_turnsOver (p : Plot) (r cx : Nat) (b : Byte) (count : Nat) (hcount : count ≤ 8) :
    TurnsOver (fun r' c' => r' = r % 32 ∧ RowBit b cx count c') p
      ((List.range count).foldl (fun p c => if b.getLsbD (7 - c) then plotBit p r (cx + c) else p) p) := by
  induction count with
  | zero => exact (TurnsOver.refl p).congr (by simp [RowBit])
  | succ count ih =>
    rw [List.range_succ, List.foldl_append, List.foldl_cons, List.foldl_nil]
    have hcolumns := ih (by omega)
    split
    · next hbit =>
      refine (hcolumns.trans (plotBit_turnsOver _ r (cx + count)) ?_).congr fun r' c' => ?_
      · rintro r' c' ⟨-, dc, hdc, -, hc⟩ ⟨-, hc'⟩
        omega
      · simp only [rowBit_succ, hbit, true_and]
        tauto
    · next hbit =>
      refine hcolumns.congr fun r' c' => ?_
      simp [rowBit_succ, hbit]

theorem plotRow_turnsOver (p : Plot) (r cx : Nat) (b : Byte) :
    TurnsOver (fun r' c' => r' = r % 32 ∧ RowBit b cx 8 c') p (plotRow p r cx b) :=
  plotRow_columns_turnsOver p r cx b 8 (Nat.le_refl 8)

/-- A bit of the sprite lands on the pixel at row `r`, column `c`: row `dr` of the sprite `dr` rows below the anchor (R191). -/
def SpriteBit (cy cx : Nat) (rows : List Byte) (r c : Nat) : Prop :=
  ∃ dr, ∃ h : dr < rows.length, r = (cy + dr) % 32 ∧ RowBit rows[dr] cx 8 c

theorem spriteBit_cons (cy cx : Nat) (b : Byte) (rows : List Byte) (r c : Nat) :
    SpriteBit cy cx (b :: rows) r c ↔ (r = cy % 32 ∧ RowBit b cx 8 c) ∨ SpriteBit (cy + 1) cx rows r c := by
  constructor
  · rintro ⟨_ | dr, hdr, hr, hbit⟩
    · exact .inl ⟨hr, hbit⟩
    · exact .inr ⟨dr, Nat.lt_of_succ_lt_succ hdr, by omega, hbit⟩
  · rintro (⟨hr, hbit⟩ | ⟨dr, hdr, hr, hbit⟩)
    · exact ⟨0, Nat.succ_pos _, hr, hbit⟩
    · exact ⟨dr + 1, Nat.succ_lt_succ hdr, by omega, hbit⟩

/-- A sprite of at most 32 rows: they land in different rows. -/
theorem plotRows_turnsOver (rows : List Byte) (p : Plot) (cy cx : Nat) (hrows : rows.length ≤ 32) :
    TurnsOver (SpriteBit cy cx rows) p (plotRows p cy cx rows) := by
  induction rows generalizing p cy with
  | nil => exact (TurnsOver.refl p).congr (by simp [SpriteBit])
  | cons b rest ih =>
    rw [List.length_cons] at hrows
    refine ((plotRow_turnsOver p cy cx b).trans (ih (plotRow p cy cx b) (cy + 1) (by omega)) ?_).congr fun r c =>
      (spriteBit_cons cy cx b rest r c).symm
    rintro r c ⟨hr, -⟩ ⟨dr, hdr, hr', -⟩
    omega

/-! ### The instruction -/

variable (s : State) (x y : RegIx) (n : Rows)

/-- The sprite Dxyn reads, at the anchor Vx, Vy. -/
theorem spriteBit_iff_lands (r c : Nat) :
    SpriteBit s.v[y].toNat s.v[x].toNat (s.readBytes s.i.toNat n.val) r c ↔ Lands s x y n r c := by
  constructor
  · rintro ⟨dr, hdr, hr, dc, hdc, hbit, hc⟩
    rw [State.readBytes_get] at hbit
    rw [State.readBytes_length] at hdr
    exact ⟨dr, dc, hdr, hdc, hbit, hr, hc⟩
  · rintro ⟨dr, dc, hdr, hdc, hbit, hr, hc⟩
    have hdr' : dr < (s.readBytes s.i.toNat n.val).length := by rwa [State.readBytes_length]
    exact ⟨dr, hdr', hr, dc, hdc, by rwa [State.readBytes_get], hc⟩

/-- The plot of Dxyn, the anchor read before VF is written (decision D7). -/
def drawPlot : Plot := plotSprite s.disp s.v[x] s.v[y] (s.readBytes s.i.toNat n.val)

theorem drawPlot_turnsOver : TurnsOver (Lands s x y n) { disp := s.disp, hit := false } (drawPlot s x y n) :=
  (plotRows_turnsOver _ _ _ _ (by rw [State.readBytes_length]; omega)).congr (spriteBit_iff_lands s x y n)

theorem exec_drwVxVyN : exec (.drwVxVyN x y n) s = withRange s s.i.toNat n.val
    (done ((s.setDisp (drawPlot s x y n).disp).setV vf (flagByte (drawPlot s x y n).hit))) := rfl

theorem flagByte_eq_one (f : Bool) : flagByte f = 1 ↔ f = true := by
  cases f <;> decide

theorem flagByte_cases (f : Bool) : flagByte f = 1 ∨ flagByte f = 0 := by
  cases f <;> decide

/-- A draw whose rows are in range completes: the pixels a bit lands on are turned over, and VF reports whether one was lit. -/
theorem draw_completes (hin : n.val = 0 ∨ InRange s s.i.toNat n.val) :
    ∃ t, exec (.drwVxVyN x y n) s = .next t ∧ t.result = .ok ∧
      (∀ r < 32, ∀ c < 64, pixel t.disp r c ≠ pixel s.disp r c ↔ Lands s x y n r c) ∧
      (t.v[vf] = 1 ∨ t.v[vf] = 0) ∧
      (t.v[vf] = 1 ↔ ∃ r c, Lands s x y n r c ∧ pixel s.disp r c = true) ∧ Frame [.disp, .v vf] s t := by
  have hexec := (exec_drwVxVyN s x y n).trans (withRange_of_inRange s _ hin)
  have hplot := drawPlot_turnsOver s x y n
  have hvf := (s.setDisp (drawPlot s x y n).disp).setV_get_self vf (flagByte (drawPlot s x y n).hit)
  refine ⟨_, hexec, rfl, hplot.turned, ?_, ?_, frame_exec_of_ok hexec rfl⟩
  · exact (flagByte_cases _).imp hvf.trans hvf.trans
  · refine (Eq.congr_left hvf).trans ((flagByte_eq_one _).trans (hplot.hit.trans ?_))
    simp

/-- Settles O44: the sprite's at most 15 rows of 8 bits land on different pixels, so the plot turns each of them over once. -/
theorem drawXorsTheSpriteAndReportsCollision : Obligations.DrawXorsTheSpriteAndReportsCollision := by
  refine fun x y n s => ⟨fun c => decode_encode c (.drwVxVyN x y n) rfl, fun hin => ?_, fun hp hn hout => ?_⟩
  · exact draw_completes s x y n (hin.imp_left (congrArg Fin.val))
  · exact faults_of_outOfRange s hp (i := .drwVxVyN x y n) hn (show 0x1000 < s.i.toNat + n.val by omega)

/-- A draw of no rows plots nothing, at any I, and writes 0 to VF. -/
theorem exec_drwVxVyN_zero : exec (.drwVxVyN x y 0) s = done (s.setV vf 0) :=
  (exec_drwVxVyN s x y 0).trans (withRange_of_inRange s _ (.inl rfl))

/-- Settles O45: the empty range is never out of bounds (R195), and the instruction is then the one write of VF. -/
theorem drawOfZeroRowsClearsVF : Obligations.DrawOfZeroRowsClearsVF := by
  intro x y s
  exact setV_completes s vf (exec_drwVxVyN_zero s x y)

/-! ### The same sprite twice (R196) -/

/-- Where the bits of a sprite land is decided by the anchor and the bytes of its rows. -/
theorem lands_congr {s u : State} {x y : RegIx} {n : Rows} (hx : u.v[x] = s.v[x]) (hy : u.v[y] = s.v[y]) (hi : u.i = s.i)
    (hbytes : ∀ a, Touches s.i.toNat n.val a → u.byteAt a = s.byteAt a) (r c : Nat) :
    Lands u x y n r c ↔ Lands s x y n r c := by
  have hread (dr : Nat) (hdr : dr < n.val) : u.memRead (s.i.toNat + dr) = s.memRead (s.i.toNat + dr) :=
    hbytes _ ⟨dr, hdr, rfl⟩
  unfold Lands
  rw [hx, hy, hi]
  refine exists_congr fun dr => exists_congr fun dc => and_congr_right fun hdr => ?_
  rw [hread dr hdr]

/-- A draw that reports `Ok` is one whose rows are in range. -/
theorem inRange_of_draw {s t : State} {x y : RegIx} {n : Rows} (h : exec (.drwVxVyN x y n) s = .next t) (hr : t.result = .ok) :
    n.val = 0 ∨ InRange s s.i.toNat n.val :=
  (Nat.eq_zero_or_pos n.val).imp_right fun hn => inRange_of_exec_ok h hr hn

/-- A pixel that is turned over by both draws or by neither is as it was. -/
theorem eq_of_turned_twice : ∀ {before between after : Bool}, (after ≠ between ↔ between ≠ before) → after = before := by
  decide

/-- Settles O46: both draws turn over the same pixels, so each pixel is back, and a pixel the second finds lit is one the first did not. -/
theorem drawTwiceRestoresTheDisplay : Obligations.DrawTwiceRestoresTheDisplay := by
  intro x y n s t u h hr hdisp hx hy hi hconfig hbytes
  have hin := inRange_of_draw h hr
  have hlands := lands_congr hx hy hi hbytes
  obtain ⟨t', ht', -, hfirst, -⟩ := draw_completes s x y n hin
  cases h.symm.trans ht'
  obtain ⟨w, hw, hok, hsecond, -, hcollision, -⟩ := draw_completes u x y n (hin.imp_right fun hin => hi ▸ inRange_congr hconfig hin)
  rw [hdisp] at hsecond hcollision
  refine ⟨w, hw, hok, display_ext fun r hrow c hcol => ?_, hcollision.trans (exists_congr fun r => exists_congr fun c => ?_)⟩
  · have htwice := (hsecond r hrow c hcol).trans ((hlands r c).trans (hfirst r hrow c hcol).symm)
    exact eq_of_turned_twice htwice
  · rw [hlands]
    refine and_congr_right fun hland => ?_
    obtain ⟨hrow, hcol⟩ := (drawPlot_turnsOver s x y n).bounds r c hland
    have hturned := (hfirst r hrow c hcol).2 hland
    rw [Bool.eq_not_of_ne hturned, Bool.not_eq_true']

end Sys2Proof.Machine
end
